-- ==== Sys2Proof/Word.lean ====
section
/-! DEFINITION. The word types of the block: a register and an operand latch hold 32 bits
(00_scope.md R7, WORD), a register address and a DAC frame hold 16 (20_memory.md R46, 30_encoding.md R63). -/

namespace Sys2Proof

/-- A 32-bit register, latch or command word (00_scope.md R9). -/
abbrev Word := BitVec 32

/-- A 16-bit word address of the register space (20_memory.md R46). -/
abbrev Addr := BitVec 16

/-- A 16-bit DAC frame word W (30_encoding.md R70). -/
abbrev Frame := BitVec 16

end Sys2Proof
end

