-- ==== Sys2Proof/Syntax.lean ====
section
/-! DEFINITION. The instructions: one constructor for each row of spec/opcode_table.json (30_encoding.md
R65, R66, R71). An operand that a command takes from the latches OPA, OPB or OPC is not part of the syntax:
the latches are state (10_state.md R18). -/

namespace Sys2Proof

/-- The 17 opcodes of 30_encoding.md R65 with the fields of their command word (R66, R68), and the DAC
frame (R71). -/
inductive Instr where
  /-- NOP (40_host_interface.md R80). -/
  | nop
  /-- RD, IMM16 = address (R81). -/
  | rd (addr : Addr)
  /-- WR, IMM16 = address (R82). -/
  | wr (addr : Addr)
  /-- START (45_step_orchestrator.md R182). -/
  | start
  /-- STEP (R183). -/
  | step
  /-- ACK (R184). -/
  | ack
  /-- CONV (41_signal_conditioner.md R121). -/
  | conv
  /-- THRESH (R126). -/
  | thresh
  /-- PCT, bit 16 = REV (R128). -/
  | pct (rev : Bool)
  /-- QUANT (46_scale_quantizer.md R201). -/
  | quant
  /-- DACENC, bit 16 = SEL, false = channel A (43_dac_frame_encoder.md R151). -/
  | dacenc (sel : Bool)
  /-- U_COND, [17:16] = bank, IMM16 = channel (41_signal_conditioner.md R131). -/
  | uCond (bank : BitVec 2) (channel : BitVec 16)
  /-- U_SMOOTH, [17:16] = bank, IMM16 = channel (R124). -/
  | uSmooth (bank : BitVec 2) (channel : BitVec 16)
  /-- U_CLKDET, bit 16 = instance, false = CLK1 (42_clock_edge_detector.md R138). -/
  | uClkdet (second : Bool)
  /-- U_COMMIT, IMM16 = output index (44_output_change_filter.md R174). -/
  | uCommit (output : BitVec 16)
  /-- U_DACXFER, bit 16 = chip (43_dac_frame_encoder.md R157). -/
  | uDacxfer (chip : Bool)
  /-- U_HOOK, [18:16] = hook kind (45_step_orchestrator.md R191). -/
  | uHook (kind : BitVec 3)
  /-- DAC_FRAME: SEL = W[15], GA_n = W[13], CODE = W[11:0] (30_encoding.md R71). -/
  | dacFrame (sel gaN : Bool) (code : BitVec 12)
  deriving DecidableEq, Repr

/-- The class column of 30_encoding.md R65: may the host issue it? -/
def Instr.isHost : Instr → Bool
  | .nop | .rd _ | .wr _ | .start | .step | .ack | .conv | .thresh | .pct _ | .quant | .dacenc _ => true
  | .uCond _ _ | .uSmooth _ _ | .uClkdet _ | .uCommit _ | .uDacxfer _ | .uHook _ | .dacFrame _ _ _ => false

end Sys2Proof
end

