-- ==== Sys2Proof/WellFormed.lean ====
section
/-! DEFINITION. Which instructions are well formed: the operand values that 30_encoding.md R66 admits for
the fields that are wider than their set of values. -/

namespace Sys2Proof

/-- Banks are 1, 2 and 3; hook kinds are 1 to 6 (30_encoding.md R66; spec/opcode_table.json: "0 and 7 never
issued"). Every other field admits all its values: an address or an index is checked against the machine when
the instruction runs (20_memory.md R48). -/
def Instr.wellFormed : Instr → Bool
  | .uCond bank _ => bank != 0
  | .uSmooth bank _ => bank != 0
  | .uHook kind => kind != 0 && kind != 7
  | .nop | .rd _ | .wr _ | .start | .step | .ack | .conv | .thresh | .pct _ | .quant | .dacenc _ => true
  | .uClkdet _ | .uCommit _ | .uDacxfer _ | .dacFrame _ _ _ => true

end Sys2Proof
end

