-- ==== Sys2Proof/Decode.lean ====
section
/-! DEFINITION. Decoding and encoding (30_encoding.md). The block has two formats (R63): the 32-bit command
word and the 16-bit DAC frame. They travel on different wires, so the format is known before a word is decoded
and is part of the input. Words have no byte order (20_memory.md R50). -/

namespace Sys2Proof

/-- A word of one of the two formats of 30_encoding.md R63. -/
inductive Raw where
  /-- A command word CW. -/
  | cmd (w : Word)
  /-- A frame word W. -/
  | frame (w : Frame)
  deriving DecidableEq, Repr

/-- Why a word is no instruction. -/
inductive DecodeError where
  /-- OPC is in no row of 30_encoding.md R65. -/
  | unassignedOpcode (opc : BitVec 8)
  /-- A FLAGS or IMM16 bit that the opcode does not define is 1 (R67). -/
  | reservedBits (opc : BitVec 8)
  /-- W[14] = 1 or W[12] = 0 (R73). -/
  | notAFrame (w : Frame)
  deriving DecidableEq, Repr

/-- The field `x` of an `m`-bit word, its bit 0 at bit `k` (00_scope.md R10); the word's other bits are 0. -/
def fieldAt (m : Nat) {n : Nat} (x : BitVec n) (k : Nat) : BitVec m := x.setWidth m <<< k

/-- The one-bit field `b` at bit `k`. -/
def bitAt (m : Nat) (b : Bool) (k : Nat) : BitVec m := fieldAt m (BitVec.ofBool b) k

/-- OPC, bits [31:24] (30_encoding.md R64). -/
def cwOpc (w : Word) : BitVec 8 := w.extractLsb' 24 8

/-- FLAGS, bits [23:16] (R64). -/
def cwFlags (w : Word) : BitVec 8 := w.extractLsb' 16 8

/-- IMM16, bits [15:0] (R64). -/
def cwImm (w : Word) : BitVec 16 := w.extractLsb' 0 16

/-- The command word of three fields (R64). -/
def mkCw (opc flags : BitVec 8) (imm : BitVec 16) : Word :=
  fieldAt 32 opc 24 ||| fieldAt 32 flags 16 ||| fieldAt 32 imm 0

/-- The instruction `i`, if the bits its opcode does not define are 0 (R67). -/
def ifClear (opc : BitVec 8) (clear : Bool) (i : Instr) : Except DecodeError Instr :=
  if clear then .ok i else .error (.reservedBits opc)

/-- Decode a command word by the table of 30_encoding.md R65, R66, R68 (spec/opcode_table.json). The defined
FLAGS bits are [0] of PCT, DACENC, U_CLKDET and U_DACXFER, [1:0] of U_COND and U_SMOOTH, [2:0] of U_HOOK. -/
def decodeCmd (w : Word) : Except DecodeError Instr :=
  let opc := cwOpc w
  let flags := cwFlags w
  let imm := cwImm w
  match opc with
  | 0x01#8 => ifClear opc (flags == 0 && imm == 0) .nop
  | 0x02#8 => ifClear opc (flags == 0) (.rd imm)
  | 0x03#8 => ifClear opc (flags == 0) (.wr imm)
  | 0x04#8 => ifClear opc (flags == 0 && imm == 0) .start
  | 0x05#8 => ifClear opc (flags == 0 && imm == 0) .step
  | 0x06#8 => ifClear opc (flags == 0 && imm == 0) .ack
  | 0x10#8 => ifClear opc (flags == 0 && imm == 0) .conv
  | 0x11#8 => ifClear opc (flags == 0 && imm == 0) .thresh
  | 0x12#8 => ifClear opc (flags.extractLsb' 1 7 == 0 && imm == 0) (.pct (flags.getLsbD 0))
  | 0x13#8 => ifClear opc (flags == 0 && imm == 0) .quant
  | 0x14#8 => ifClear opc (flags.extractLsb' 1 7 == 0 && imm == 0) (.dacenc (flags.getLsbD 0))
  | 0x80#8 => ifClear opc (flags.extractLsb' 2 6 == 0) (.uCond (flags.extractLsb' 0 2) imm)
  | 0x81#8 => ifClear opc (flags.extractLsb' 2 6 == 0) (.uSmooth (flags.extractLsb' 0 2) imm)
  | 0x82#8 => ifClear opc (flags.extractLsb' 1 7 == 0 && imm == 0) (.uClkdet (flags.getLsbD 0))
  | 0x83#8 => ifClear opc (flags == 0) (.uCommit imm)
  | 0x84#8 => ifClear opc (flags.extractLsb' 1 7 == 0 && imm == 0) (.uDacxfer (flags.getLsbD 0))
  | 0x85#8 => ifClear opc (flags.extractLsb' 3 5 == 0 && imm == 0) (.uHook (flags.extractLsb' 0 3))
  | _ => .error (.unassignedOpcode opc)

/-- Decode a frame word (30_encoding.md R71): it is one when W[14] = 0 and W[12] = 1 (R73). -/
def decodeFrame (w : Frame) : Except DecodeError Instr :=
  if !w.getLsbD 14 && w.getLsbD 12 then
    .ok (.dacFrame (w.getLsbD 15) (w.getLsbD 13) (w.extractLsb' 0 12))
  else .error (.notAFrame w)

/-- Decode a word of either format. -/
def decode : Raw → Except DecodeError Instr
  | .cmd w => decodeCmd w
  | .frame w => decodeFrame w

/-- The frame word of its fields: {SEL, 0, GA_n, ACTIVE = 1, CODE} (30_encoding.md R71, R72). -/
def mkFrame (sel gaN : Bool) (code : BitVec 12) : Frame :=
  bitAt 16 sel 15 ||| bitAt 16 gaN 13 ||| bitAt 16 true 12 ||| fieldAt 16 code 0

/-- A one-bit FLAGS value: bit 16 of the command word (R68). -/
def flagBit (b : Bool) : BitVec 8 := bitAt 8 b 0

/-- The word of an instruction (30_encoding.md R65, R66, R71). -/
def encode : Instr → Raw
  | .nop => .cmd (mkCw 0x01 0 0)
  | .rd addr => .cmd (mkCw 0x02 0 addr)
  | .wr addr => .cmd (mkCw 0x03 0 addr)
  | .start => .cmd (mkCw 0x04 0 0)
  | .step => .cmd (mkCw 0x05 0 0)
  | .ack => .cmd (mkCw 0x06 0 0)
  | .conv => .cmd (mkCw 0x10 0 0)
  | .thresh => .cmd (mkCw 0x11 0 0)
  | .pct rev => .cmd (mkCw 0x12 (flagBit rev) 0)
  | .quant => .cmd (mkCw 0x13 0 0)
  | .dacenc sel => .cmd (mkCw 0x14 (flagBit sel) 0)
  | .uCond bank channel => .cmd (mkCw 0x80 (fieldAt 8 bank 0) channel)
  | .uSmooth bank channel => .cmd (mkCw 0x81 (fieldAt 8 bank 0) channel)
  | .uClkdet second => .cmd (mkCw 0x82 (flagBit second) 0)
  | .uCommit output => .cmd (mkCw 0x83 0 output)
  | .uDacxfer chip => .cmd (mkCw 0x84 (flagBit chip) 0)
  | .uHook kind => .cmd (mkCw 0x85 (fieldAt 8 kind 0) 0)
  | .dacFrame sel gaN code => .frame (mkFrame sel gaN code)

/-- The word of `nbits` bits with value `w`, in the format of that width: spec/opcode_table.json gives 16 bits
to the frame row and 32 to every command row. -/
def rawOfTable (nbits w : Nat) : Raw :=
  if nbits == 16 then .frame (BitVec.ofNat 16 w) else .cmd (BitVec.ofNat 32 w)

/-- The instruction that the decoder reads from a word of spec/opcode_table.json. -/
def decodeTableWord (nbits w : Nat) : Option Instr :=
  match decode (rawOfTable nbits w) with
  | .ok i => some i
  | .error _ => none

/-- Legal(CW): the words the host may issue (30_encoding.md R74). -/
def legalCw (w : Word) : Bool :=
  match decodeCmd w with
  | .ok i => i.isHost
  | .error _ => false

end Sys2Proof
end

