-- ==== Sys2Proof/Config.lean ====
section
/-! DEFINITION. What one implementation fixes (the parameters of 00_scope.md R7) and the values the spec
leaves free. A parameter is an argument of the model: State carries it, and every meaning reads it there. -/

namespace Sys2Proof

/-- TONE_MV[0..11] (46_scale_quantizer.md R206): the default table floor(1000·k/12), or 83·k, "the one
alternative". DEDUCED, log entry 12: no third table is admitted. -/
inductive ToneTable where
  | floorOfExact
  | times83
  deriving DecidableEq, Repr, Inhabited

/-- The parameters of 00_scope.md R7 that are not channel counts. Each field is a plain number whose type
is exactly the range R7 gives: ADC_BITS in [1, 24] and the positive ADC_RES and VREF_MV are stored less one,
so that no value outside the range can be written down. -/
structure Params where
  /-- ADC_BITS − 1. -/
  adcBitsPred : Fin 24
  /-- ADC_RES − 1. -/
  adcResPred : Nat
  /-- VREF_MV − 1. -/
  vrefMvPred : Nat
  /-- LDAC_WIRED[0]. -/
  ldacWired0 : Bool
  /-- LDAC_WIRED[1]. -/
  ldacWired1 : Bool
  /-- TONE_MV. -/
  toneMv : ToneTable
  deriving DecidableEq, Repr, Inhabited

/-- The channel counts N_IN, N_POT, N_SW, N_OUT, each an integer in [0, 32] (00_scope.md R7). -/
structure Counts where
  nIn : Fin 33
  nPot : Fin 33
  nSw : Fin 33
  nOut : Fin 33
  deriving DecidableEq, Repr, Inhabited

/-- The spec's example parameters (95_test_vectors.md): ADC_BITS = 12, ADC_RES = 4096, VREF_MV = 5000,
LDAC_WIRED = [1, 1], the default TONE_MV. DESIGN CHOICE, unsafe, log entry 1: `State.reset` is the reset state
of this one implementation. Every operation and every statement takes any `Params`. -/
def Config.exampleParams : Params where
  adcBitsPred := 11
  adcResPred := 4095
  vrefMvPred := 4999
  ldacWired0 := true
  ldacWired1 := true
  toneMv := .floorOfExact

/-- The example counts of 95_test_vectors.md section 2.1. DESIGN CHOICE, unsafe, log entry 1. -/
def Config.exampleCounts : Counts where
  nIn := 2
  nPot := 1
  nSw := 1
  nOut := 2

/-- FREE VALUE, log entry 3: the raw sample the environment presents at the n-th draw for which the sample
list says nothing (10_state.md R37: "a fresh value the environment chooses, under no law"). The sample port
takes its low ADC_BITS bits. -/
opaque Config.freeSample : Nat → BitVec 24

/-- FREE VALUE, log entry 8: the n-th pin level that the spec leaves at any value (SDI between rising
edges and between transfers, 93_implementation_defined.md U11; DOUT after RST, U12). -/
opaque Config.freeBit : Nat → Bool

end Sys2Proof
end

