-- ==== Sys2Proof/Machine/State.lean ====
section
/-! DEFINITION. The state of the block (10_state.md R17), the inputs that drive it, and its reset state
(70_reset_and_hazards.md R234). Everything is plain data. -/

namespace Sys2Proof.Machine

/-- The reasons a step could stop the model with a fault. There is none: every error of this spec is the
sticky HALTED state of 60_exceptions.md R216, which is a next state. -/
inductive Fault where
  deriving DecidableEq, Repr

/-- The reasons a step has no meaning. -/
inductive Refusal where
  /-- Raised by an arm of `exec` whose instruction has no meaning yet. Safe. No arm is. -/
  | notModelled (mnemonic : String)
  /-- Raised by an internal micro-operation whose operand value the sequencer never issues: bank 0, a channel
  or output the block does not have, hook kind 0 or 7 (30_encoding.md R66, spec/opcode_table.json "never
  issued"; 60_exceptions.md R224), an enabled clock whose source does not exist (42_clock_edge_detector.md R138), or
an analog output with no DAC channel (43_dac_frame_encoder.md R154, R155).
  Safe: the spec gives it no effect. Log entry 5. -/
  | neverIssued
  deriving DecidableEq, Repr

/-- MODE (10_state.md R20). -/
inductive Mode where
  | config
  | run
  | halted
  deriving DecidableEq, Repr, Inhabited

/-- HOOK (10_state.md R21). -/
inductive Hook where
  | none
  | start
  | rise1
  | fall1
  | rise2
  | fall2
  | step
  deriving DecidableEq, Repr, Inhabited

/-- PHASE (10_state.md R22). -/
inductive Phase where
  | idle
  | startHook
  | condIn
  | condPot
  | condSw
  | clk1
  | clk2
  | stepHook
  | commit
  | debugDelay
  deriving DecidableEq, Repr, Inhabited

/-- FAULT.CODE (60_exceptions.md R217); `none` is 0, "no fault". -/
inductive FaultCode where
  | none
  | tooManyAout
  | badIndex
  | divZero
  | illegalCmd
  | badPhase
  | cfgLocked
  | readOnly
  | range
  deriving DecidableEq, Repr, Inhabited

/-- The three banks of conditioned channels (00_scope.md R15): 1 inputs, 2 pots, 3 switches. -/
inductive Bank where
  | inputs
  | pots
  | switches
  deriving DecidableEq, Repr, Inhabited

/-- The two DAC chips (43_dac_frame_encoder.md R156). -/
inductive Chip where
  | chip0
  | chip1
  deriving DecidableEq, Repr, Inhabited

/-- The defined fields of CTRL (10_state.md R26). A reserved bit has no storage. -/
structure Ctrl where
  debug : Bool
  heStart : Bool
  heRise1 : Bool
  heFall1 : Bool
  heRise2 : Bool
  heFall2 : Bool
  heStep : Bool
  deriving DecidableEq, Repr

/-- The defined fields of CLKn_SRC (10_state.md R27). -/
structure ClkSrc where
  en : Bool
  idx : BitVec 8
  deriving DecidableEq, Repr

/-- One clock edge detector: its CLKn_SRC, LEVELn (R38) and its two EVENTS bits (R28). -/
structure Clock where
  src : ClkSrc
  /-- LEVELn: false is AwaitingRise, true is AwaitingFall (42_clock_edge_detector.md R136). -/
  level : Bool
  /-- EVENTS.RISEn. -/
  rise : Bool
  /-- EVENTS.FALLn. -/
  fall : Bool
  deriving DecidableEq, Repr

/-- HIST: exactly 8 signed 32-bit entries, h0 the oldest and h7 the newest (10_state.md R36). -/
structure Hist where
  h0 : Word
  h1 : Word
  h2 : Word
  h3 : Word
  h4 : Word
  h5 : Word
  h6 : Word
  h7 : Word
  deriving DecidableEq, Repr

/-- One channel block and its hidden history (10_state.md R30 to R36). -/
structure Channel where
  /-- CCTL.DIGITAL. -/
  digital : Bool
  /-- CCTL.SMOOTH. -/
  smooth : Bool
  /-- CCTL.REV. -/
  rev : Bool
  r1 : Word
  r2 : Word
  cutoff : Word
  vmax : Word
  tol : Word
  reading : Word
  hist : Hist
  deriving DecidableEq, Repr

/-- One output: OCTL.ANALOG and DESIRED (10_state.md R39), COMMITTED (R40, `none` is the spec's NONE) and
the pin DOUT (R42). An analog output has no DOUT pin (44_output_change_filter.md R178): the level `dout` that it
holds all the same is no pin, and nothing but reset sets it. DESIGN CHOICE, log entry 28. -/
structure Output where
  analog : Bool
  desired : Word
  committed : Option Word
  dout : Bool
  deriving DecidableEq, Repr

/-- The pins of the DAC bus (10_state.md R42); true is the high level. -/
structure Pins where
  csN0 : Bool
  csN1 : Bool
  sck : Bool
  sdi : Bool
  ldacN0 : Bool
  ldacN1 : Bool
  deriving DecidableEq, Repr

/-- The events of the bus trace (10_state.md R41). -/
inductive BusEvent where
  | dacFrame (chip : Chip) (w : Frame)
  | digitalWrite (o : Nat) (b : Bool)
  deriving DecidableEq, Repr

/-- One host command: the four latches the host writes together (10_state.md R18). -/
structure Cmd where
  cw : Word
  opa : Word
  opb : Word
  opc : Word
  deriving DecidableEq, Repr

/-- What comes to the block from outside between two steps: the host issues a command, or RST is asserted and
released (70_reset_and_hazards.md R232). The last two are the model's own (log entry 4): one micro-operation with
its OPA, or one frame, to be performed by itself, in whatever mode (DESIGN CHOICE, log entry 27); no host issues
them. -/
inductive Input where
  | cmd (c : Cmd)
  | rst
  | micro (cw opa : Word)
  | frame (w : Frame)
  deriving DecidableEq, Repr

/-- Is the input one that a host can present (10_state.md R18, 70_reset_and_hazards.md R232)? -/
def Input.fromHost : Input → Bool
  | .cmd _ | .rst => true
  | .micro _ _ | .frame _ => false

/-- The state record of the block: the list of 10_state.md R17, (1) to (7), and nothing else. The channel counts
N_IN, N_POT, N_SW and N_OUT are the lengths of the four lists (log entry 18). -/
structure Block where
  /-- (1) The command port latches (R18). -/
  cw : Word
  opa : Word
  opb : Word
  opc : Word
  res : Word
  /-- (2) The sequencer state (R20 to R22). -/
  mode : Mode
  hook : Hook
  phase : Phase
  /-- (3) The fault record (R24, R25). -/
  faultCode : FaultCode
  faultInfo : Word
  /-- (4) The configuration registers CTRL and CLKn_SRC (R26, R27), and with each clock its (5) EVENTS bits (R28)
  and its (6) hidden LEVELn (R38). -/
  ctrl : Ctrl
  clk1 : Clock
  clk2 : Clock
  /-- The channel blocks: (4) CCTL, R1, R2, CUTOFF, VMAX, TOL, (5) READING, (6) HIST (R30 to R36). -/
  inputs : List Channel
  pots : List Channel
  switches : List Channel
  /-- The outputs: (4) OCTL, (5) DESIRED, (6) COMMITTED (R39, R40), (7) the pin DOUT of a digital one (R42, log entry
  28). -/
  outputs : List Output
  /-- (7) The pins of the DAC bus (R42) and the bus trace, oldest event first (R41). -/
  pins : Pins
  trace : List BusEvent
  deriving DecidableEq, Repr

/-- What is not state of the block, and what a step reads beside it, as its only argument is the state: the
arguments that 00_scope.md R7 gives a model, the inputs still to come, the draws still to come and the index of the
next free value (log entries 1 to 4, 8 and 26). -/
structure Surroundings where
  /-- The parameters of the implementation, which nothing changes (R7). -/
  params : Params
  /-- The inputs still to come, in order. -/
  inbox : List Input
  /-- The raw samples still to be drawn, in draw order (10_state.md R37: a draw, no state of the block). -/
  samples : List (BitVec 24)
  /-- The index of the next free value. -/
  free : Nat
  deriving DecidableEq, Repr

/-- What one step takes and gives: the state of the block (10_state.md R17) and its surroundings. -/
structure State extends Block, Surroundings where
  deriving DecidableEq, Repr

/-- The outcome of an instruction or a step. -/
abbrev Result := Host.Outcome State Fault Refusal

/-- CTRL = 0x00000000 (R234). -/
def Ctrl.reset : Ctrl := ⟨false, false, false, false, false, false, false⟩

/-- CLKn_SRC = 0x00000000, LEVELn = 0, EVENTS = 0 (R234). -/
def Clock.reset : Clock := ⟨⟨false, 0⟩, false, false, false⟩

/-- HIST = [0, 0, 0, 0, 0, 0, 0, 0] (R234). -/
def Hist.reset : Hist := ⟨0, 0, 0, 0, 0, 0, 0, 0⟩

/-- A channel at reset: CCTL = 2, TOL = 1, everything else 0 (R234). -/
def Channel.reset : Channel where
  digital := false
  smooth := true
  rev := false
  r1 := 0
  r2 := 0
  cutoff := 0
  vmax := 0
  tol := 1
  reading := 0
  hist := Hist.reset

/-- An output at reset with its pin at the level `dout`: OCTL = 0, DESIRED = 0, COMMITTED = NONE (R234). -/
def Output.reset (dout : Bool) : Output := ⟨false, 0, none, dout⟩

/-- The idle and reset levels of the DAC bus (10_state.md R42, R234). -/
def Pins.reset : Pins := ⟨true, true, false, false, true, true⟩

/-- The state right after power-on of the implementation with parameters `p` and channel counts `n`
(70_reset_and_hazards.md R234): the trace starts empty (10_state.md R41), and no input has been presented. DOUT
is 0: DESIGN CHOICE, unsafe, log entry 7 (the spec leaves it at any value). -/
def State.resetWith (n : Counts) (p : Params) : State where
  params := p
  inbox := []
  samples := []
  free := 0
  cw := 0
  opa := 0
  opb := 0
  opc := 0
  res := 0
  mode := .config
  hook := .none
  phase := .idle
  faultCode := .none
  faultInfo := 0
  ctrl := Ctrl.reset
  clk1 := Clock.reset
  clk2 := Clock.reset
  inputs := List.replicate n.nIn Channel.reset
  pots := List.replicate n.nPot Channel.reset
  switches := List.replicate n.nSw Channel.reset
  outputs := List.replicate n.nOut (Output.reset false)
  pins := Pins.reset
  trace := []

/-- The machine right after reset, for the spec's example implementation (log entry 1). -/
def State.reset : State := State.resetWith Config.exampleCounts Config.exampleParams

end Sys2Proof.Machine
end

