-- ==== Sys2Proof/Machine/Flags.lean ====
section
/-! DEFINITION. The status and flag words: how MODE, HOOK, PHASE, the fault record, EVENTS and the
configuration fields are laid out in the registers that show them (10_state.md R23 to R30, R39). -/

namespace Sys2Proof.Machine

/-- The 2-bit code of MODE (10_state.md R20). -/
def modeCode : Mode → BitVec 2
  | .config => 0
  | .run => 1
  | .halted => 2

/-- The 3-bit code of HOOK (10_state.md R21). -/
def hookCode : Hook → BitVec 3
  | .none => 0
  | .start => 1
  | .rise1 => 2
  | .fall1 => 3
  | .rise2 => 4
  | .fall2 => 5
  | .step => 6

/-- The 4-bit code of PHASE (10_state.md R22). -/
def phaseCode : Phase → BitVec 4
  | .idle => 0
  | .startHook => 1
  | .condIn => 2
  | .condPot => 3
  | .condSw => 4
  | .clk1 => 5
  | .clk2 => 6
  | .stepHook => 7
  | .commit => 8
  | .debugDelay => 9

/-- The 8-bit FAULT.CODE (60_exceptions.md R217). -/
def faultCodeCode : FaultCode → BitVec 8
  | .none => 0
  | .tooManyAout => 1
  | .badIndex => 2
  | .divZero => 3
  | .illegalCmd => 4
  | .badPhase => 5
  | .cfgLocked => 6
  | .readOnly => 7
  | .range => 8

/-- STATUS: [1:0] MODE, [6:4] HOOK, [11:8] PHASE, the rest 0 (10_state.md R23). -/
def statusWord (s : State) : Word :=
  fieldAt 32 (modeCode s.mode) 0 ||| fieldAt 32 (hookCode s.hook) 4 ||| fieldAt 32 (phaseCode s.phase) 8

/-- FAULT: [7:0] CODE (10_state.md R24). -/
def faultWord (s : State) : Word := fieldAt 32 (faultCodeCode s.faultCode) 0

/-- CTRL: [0] DEBUG, [8] HE_START, [9] HE_RISE1, [10] HE_FALL1, [11] HE_RISE2, [12] HE_FALL2, [13] HE_STEP
(10_state.md R26). -/
def ctrlWord (c : Ctrl) : Word :=
  bitAt 32 c.debug 0 ||| bitAt 32 c.heStart 8 ||| bitAt 32 c.heRise1 9 ||| bitAt 32 c.heFall1 10 |||
    bitAt 32 c.heRise2 11 ||| bitAt 32 c.heFall2 12 ||| bitAt 32 c.heStep 13

/-- The CTRL fields that a written word sets (10_state.md R26). -/
def ctrlOfWord (w : Word) : Ctrl where
  debug := w.getLsbD 0
  heStart := w.getLsbD 8
  heRise1 := w.getLsbD 9
  heFall1 := w.getLsbD 10
  heRise2 := w.getLsbD 11
  heFall2 := w.getLsbD 12
  heStep := w.getLsbD 13

/-- CLKn_SRC: [31] EN, [7:0] IDX (10_state.md R27). -/
def clkSrcWord (c : ClkSrc) : Word := fieldAt 32 c.idx 0 ||| bitAt 32 c.en 31

/-- The CLKn_SRC fields that a written word sets (10_state.md R27). -/
def clkSrcOfWord (w : Word) : ClkSrc := ⟨w.getLsbD 31, w.extractLsb' 0 8⟩

/-- EVENTS: [0] RISE1, [1] FALL1, [2] RISE2, [3] FALL2, [8] LVL1, [9] LVL2 (10_state.md R28). -/
def eventsWord (s : State) : Word :=
  bitAt 32 s.clk1.rise 0 ||| bitAt 32 s.clk1.fall 1 ||| bitAt 32 s.clk2.rise 2 ||| bitAt 32 s.clk2.fall 3 |||
    bitAt 32 s.clk1.level 8 ||| bitAt 32 s.clk2.level 9

/-- PARAMS: [7:0] N_IN, [15:8] N_POT, [23:16] N_SW, [31:24] N_OUT (10_state.md R29). -/
def paramsWord (s : State) : Word :=
  fieldAt 32 (BitVec.ofNat 8 s.inputs.length) 0 ||| fieldAt 32 (BitVec.ofNat 8 s.pots.length) 8 |||
    fieldAt 32 (BitVec.ofNat 8 s.switches.length) 16 ||| fieldAt 32 (BitVec.ofNat 8 s.outputs.length) 24

/-- CCTL: [0] DIGITAL, [1] SMOOTH, [2] REV (10_state.md R30). -/
def cctlWord (c : Channel) : Word :=
  bitAt 32 c.digital 0 ||| bitAt 32 c.smooth 1 ||| bitAt 32 c.rev 2

/-- OCTL: [0] ANALOG (10_state.md R39). -/
def octlWord (o : Output) : Word := bitAt 32 o.analog 0

end Sys2Proof.Machine
end

