-- ==== Sys2Proof/Machine/Operands.lean ====
section
/-! DEFINITION. Operand forms and the integer primitives (00_scope.md R9, R11; 30_encoding.md R69), and the
parameters as the numbers the rules name (R7). Arithmetic is on exact integers, narrowed once. -/

namespace Sys2Proof.Machine

/-- s32(w): a word read as two's complement (R9). -/
def s32 (w : Word) : Int := w.toInt

/-- u32(w): a word read as unsigned (R9). -/
def u32 (w : Word) : Nat := w.toNat

/-- fits32(x): −2^31 ≤ x ≤ 2^31 − 1 (R9). -/
def fits32 (x : Int) : Bool := decide (-2147483648 ≤ x) && decide (x ≤ 2147483647)

/-- w32(x): the 32-bit two's-complement word of an integer (R9). -/
def w32 (x : Int) : Word := BitVec.ofInt 32 x

/-- floor_div(a, b) for b > 0: the greatest q with q·b ≤ a (R11). -/
def floorDiv (a b : Int) : Int := a / b

/-- a mod b for b > 0 (R11). -/
def floorMod (a b : Int) : Int := a - b * floorDiv a b

/-- clamp(x, lo, hi) (R11). -/
def clamp (x lo hi : Int) : Int := if x < lo then lo else if x > hi then hi else x

/-- A Boolean result as the word 0 or 1. -/
def boolWord (b : Bool) : Word := if b then 1 else 0

/-- ADC_BITS (R7). -/
def adcBits (p : Params) : Nat := p.adcBitsPred.val + 1

/-- ADC_MAX = 2^ADC_BITS − 1 (R7). -/
def adcMax (p : Params) : Nat := 2 ^ adcBits p - 1

/-- ADC_RES (R7). -/
def adcRes (p : Params) : Nat := p.adcResPred + 1

/-- VREF_MV (R7). -/
def vrefMv (p : Params) : Nat := p.vrefMvPred + 1

/-- LDAC_WIRED[k] (R7). -/
def ldacWired (p : Params) : Chip → Bool
  | .chip0 => p.ldacWired0
  | .chip1 => p.ldacWired1

/-- TONE_MV[k] (46_scale_quantizer.md R206). -/
def toneMv (p : Params) (k : Nat) : Int :=
  match p.toneMv with
  | .floorOfExact => floorDiv (1000 * (k : Int)) 12
  | .times83 => 83 * (k : Int)

/-- The bank of its code 1, 2, 3 (00_scope.md R15); code 0 is no bank. -/
def bankOfCode (b : BitVec 2) : Option Bank :=
  if b = 1 then some .inputs
  else if b = 2 then some .pots
  else if b = 3 then some .switches
  else none

/-- The code of a bank. -/
def bankCode : Bank → Nat
  | .inputs => 1
  | .pots => 2
  | .switches => 3

/-- The chip of its code (30_encoding.md R68). -/
def chipOfCode (k : Bool) : Chip := if k then .chip1 else .chip0

/-- The hook kind of its code 1 to 6 (10_state.md R21, 45_step_orchestrator.md R180). -/
def hookOfCode (k : BitVec 3) : Option Hook :=
  if k = 1 then some .start
  else if k = 2 then some .rise1
  else if k = 3 then some .fall1
  else if k = 4 then some .rise2
  else if k = 5 then some .fall2
  else if k = 6 then some .step
  else none

end Sys2Proof.Machine
end

