-- ==== Sys2Proof/Machine/Ops.lean ====
section
/-! DEFINITION. The named operations over the state: the updates every meaning is written with, entering the
fault state (60_exceptions.md R216), returning from a hook (45_step_orchestrator.md R184), the checks every host
command makes (R218), the register space (20_memory.md R47, R48) and the free draws. -/

namespace Sys2Proof.Machine

/-! ### Updates -/

/-- RES <- w. -/
def State.setRes (s : State) (w : Word) : State := { s with res := w }

/-- MODE <- m. -/
def State.setMode (s : State) (m : Mode) : State := { s with mode := m }

/-- HOOK <- h. -/
def State.setHook (s : State) (h : Hook) : State := { s with hook := h }

/-- PHASE <- p. -/
def State.setPhase (s : State) (p : Phase) : State := { s with phase := p }

/-- The host writes CW, OPA, OPB and OPC together (10_state.md R18). -/
def State.latch (s : State) (c : Cmd) : State :=
  { s with cw := c.cw, opa := c.opa, opb := c.opb, opc := c.opc }

/-- The fault record (10_state.md R24, R25). -/
def State.setFault (s : State) (code : FaultCode) (info : Word) : State :=
  { s with faultCode := code, faultInfo := info }

/-- CTRL <- c. -/
def State.setCtrl (s : State) (c : Ctrl) : State := { s with ctrl := c }

/-- The channels of a bank. -/
def State.bank (s : State) : Bank → List Channel
  | .inputs => s.inputs
  | .pots => s.pots
  | .switches => s.switches

/-- Replace the channels of a bank. -/
def State.setBank (s : State) (b : Bank) (l : List Channel) : State :=
  match b with
  | .inputs => { s with inputs := l }
  | .pots => { s with pots := l }
  | .switches => { s with switches := l }

/-- Replace channel `c` of bank `b`. -/
def State.setChan (s : State) (b : Bank) (c : Nat) (ch : Channel) : State :=
  s.setBank b ((s.bank b).set c ch)

/-- Replace output `o`. -/
def State.setOutput (s : State) (o : Nat) (out : Output) : State :=
  { s with outputs := s.outputs.set o out }

/-- The detector CLK1 (false) or CLK2 (true). -/
def State.clock (s : State) (second : Bool) : Clock := if second then s.clk2 else s.clk1

/-- Replace a detector. -/
def State.setClock (s : State) (second : Bool) (c : Clock) : State :=
  if second then { s with clk2 := c } else { s with clk1 := c }

/-- Drive the pins of the DAC bus. -/
def State.setPins (s : State) (p : Pins) : State := { s with pins := p }

/-- Append an event to the bus trace (10_state.md R41). -/
def State.emit (s : State) (e : BusEvent) : State := { s with trace := s.trace ++ [e] }

/-- Use up `n` free values. -/
def State.takeFree (s : State) (n : Nat) : State := { s with free := s.free + n }

/-! ### Faults and hooks -/

/-- raise Fault(code, info) (60_exceptions.md R216): the one way into HALTED. PHASE and HOOK keep their
values, and nothing written before the raise is undone. -/
def State.raise (s : State) (code : FaultCode) (info : Word) : State :=
  ((s.setFault code info).setMode .halted).setRes 0

/-- request Hook(kind), U_HOOK (45_step_orchestrator.md R191). -/
def State.requestHook (s : State) (kind : Hook) : State := s.setHook kind

/-- The return from a hook: HOOK <- NONE (45_step_orchestrator.md R184). There is no return from a fault
(60_exceptions.md R222). -/
def State.returnHook (s : State) : State := s.setHook .none

/-- The rest of a pseudocode block after a step that may raise: a raise ends it (00_scope.md R13). -/
def State.unlessHalted (s : State) (rest : State → State) : State :=
  if s.mode = .halted then s else rest s

/-- The rest of the sequence after a point that may request a hook: "if HOOK != NONE: return"
(45_step_orchestrator.md R186). -/
def State.unlessHooked (s : State) (rest : State → State) : State :=
  if s.hook ≠ .none then s else rest s

/-- The checks of 60_exceptions.md R218 on a legal host command other than RD: in HALTED only RES <- 0 (R220),
BAD_PHASE with FAULT_INFO = CW where it is not allowed, else its rule. -/
def State.hostCommand (s : State) (allowed : Bool) (rule : State → State) : Result :=
  .next (if s.mode = .halted then s.setRes 0
    else if allowed then rule s
    else s.raise .badPhase s.cw)

/-! ### Draws -/

/-- Sample(b, c): the raw sample of this draw (10_state.md R37), the low ADC_BITS bits of the next sample that
the environment presents, or of a free value where none is listed. Log entry 3. -/
def State.sample (s : State) : Nat :=
  (match s.samples with
    | x :: _ => x.toNat
    | [] => (Config.freeSample s.free).toNat) % 2 ^ adcBits s.params

/-- The state after a draw. -/
def State.afterSample (s : State) : State :=
  match s.samples with
  | _ :: rest => { s with samples := rest }
  | [] => s.takeFree 1

/-! ### The register space -/

/-- The registers of a channel block (10_state.md R30 to R34). -/
inductive ChanReg where
  | cctl
  | r1
  | r2
  | cutoff
  | vmax
  | tol
  | reading
  deriving DecidableEq, Repr

/-- The registers of an output block (10_state.md R39). -/
inductive OutReg where
  | octl
  | desired
  deriving DecidableEq, Repr

/-- A register of the map of 20_memory.md R47. -/
inductive Reg where
  | status
  | fault
  | faultInfo
  | ctrl
  | clkSrc (second : Bool)
  | events
  | params
  | chan (b : Bank) (c : Nat) (r : ChanReg)
  | out (o : Nat) (r : OutReg)
  deriving DecidableEq, Repr

/-- off(F) (30_encoding.md R79). -/
def chanRegOffset : ChanReg → Nat
  | .cctl => 0
  | .r1 => 1
  | .r2 => 2
  | .cutoff => 3
  | .vmax => 4
  | .tol => 5
  | .reading => 6

/-- The register at an offset of a channel block; offset 7 is unmapped. -/
def chanRegOfOffset (k : Nat) : Option ChanReg :=
  match k with
  | 0 => some .cctl
  | 1 => some .r1
  | 2 => some .r2
  | 3 => some .cutoff
  | 4 => some .vmax
  | 5 => some .tol
  | 6 => some .reading
  | _ => none

/-- The address of a channel register: 0x0100·b + 8·c + off(F) (30_encoding.md R79). -/
def chanRegAddr (b : Bank) (c : Nat) (r : ChanReg) : Nat := 256 * bankCode b + 8 * c + chanRegOffset r

/-- The address of a register (20_memory.md R47). -/
def regAddr : Reg → Nat
  | .status => 0
  | .fault => 1
  | .faultInfo => 2
  | .ctrl => 3
  | .clkSrc false => 4
  | .clkSrc true => 5
  | .events => 6
  | .params => 7
  | .chan b c r => chanRegAddr b c r
  | .out o .octl => 1024 + 2 * o
  | .out o .desired => 1025 + 2 * o

/-- The bank of a channel block's address page. -/
def bankOfPage (page : Nat) : Option Bank :=
  match page with
  | 1 => some .inputs
  | 2 => some .pots
  | 3 => some .switches
  | _ => none

/-- The register that the map of 20_memory.md R47 lists at an address, whatever the counts. -/
def regOfAddr (a : Nat) : Option Reg :=
  match a with
  | 0 => some .status
  | 1 => some .fault
  | 2 => some .faultInfo
  | 3 => some .ctrl
  | 4 => some (.clkSrc false)
  | 5 => some (.clkSrc true)
  | 6 => some .events
  | 7 => some .params
  | _ =>
    match bankOfPage (a / 256) with
    | some b => (chanRegOfOffset (a % 8)).map (.chan b (a % 256 / 8))
    | none =>
      if 1024 ≤ a ∧ a < 1088 then some (.out ((a - 1024) / 2) (if a % 2 = 0 then .octl else .desired))
      else none

/-- Does this machine have the register: c < N_b, o < N_OUT (20_memory.md R47)? -/
def State.hasReg (s : State) : Reg → Bool
  | .chan b c _ => decide (c < (s.bank b).length)
  | .out o _ => decide (o < s.outputs.length)
  | .status | .fault | .faultInfo | .ctrl | .clkSrc _ | .events | .params => true

/-- The register at address `a`, none where Mapped(a) is false (20_memory.md R48). -/
def State.regAt (s : State) (a : Addr) : Option Reg :=
  match regOfAddr a.toNat with
  | some r => if s.hasReg r then some r else none
  | none => none

/-- The word of a channel register. -/
def chanRegWord (ch : Channel) : ChanReg → Word
  | .cctl => cctlWord ch
  | .r1 => ch.r1
  | .r2 => ch.r2
  | .cutoff => ch.cutoff
  | .vmax => ch.vmax
  | .tol => ch.tol
  | .reading => ch.reading

/-- The word of an output register. -/
def outRegWord (out : Output) : OutReg → Word
  | .octl => octlWord out
  | .desired => out.desired

/-- REG[a] as a word, reserved and zero fields 0 (20_memory.md R52). A register the machine does not have
has no word; `State.regAt` never names one. -/
def State.readReg (s : State) : Reg → Word
  | .status => statusWord s
  | .fault => faultWord s
  | .faultInfo => s.faultInfo
  | .ctrl => ctrlWord s.ctrl
  | .clkSrc second => clkSrcWord (s.clock second).src
  | .events => eventsWord s
  | .params => paramsWord s
  | .chan b c r =>
    match (s.bank b)[c]? with
    | some ch => chanRegWord ch r
    | none => 0
  | .out o r =>
    match s.outputs[o]? with
    | some out => outRegWord out r
    | none => 0

/-- REG[a], none where `a` is unmapped. -/
def State.readAt (s : State) (a : Addr) : Option Word := (s.regAt a).map s.readReg

/-- A channel register with its defined bits written (40_host_interface.md R83). READING is read-only. -/
def writeChanReg (ch : Channel) (r : ChanReg) (x : Word) : Channel :=
  match r with
  | .cctl => { ch with digital := x.getLsbD 0, smooth := x.getLsbD 1, rev := x.getLsbD 2 }
  | .r1 => { ch with r1 := x }
  | .r2 => { ch with r2 := x }
  | .cutoff => { ch with cutoff := x }
  | .vmax => { ch with vmax := x }
  | .tol => { ch with tol := x }
  | .reading => ch

/-- An output register with its defined bits written (40_host_interface.md R83). -/
def writeOutReg (out : Output) (r : OutReg) (x : Word) : Output :=
  match r with
  | .octl => { out with analog := x.getLsbD 0 }
  | .desired => { out with desired := x }

/-- The access classes of 10_state.md R43. -/
inductive Access where
  | readOnly
  | config
  | desired
  deriving DecidableEq, Repr

/-- The access class of a register (10_state.md R43, 60_exceptions.md R219). -/
def regAccess : Reg → Access
  | .status | .fault | .faultInfo | .events | .params => .readOnly
  | .chan _ _ .reading => .readOnly
  | .out _ .desired => .desired
  | .ctrl | .clkSrc _ | .out _ .octl => .config
  | .chan _ _ .cctl | .chan _ _ .r1 | .chan _ _ .r2 => .config
  | .chan _ _ .cutoff | .chan _ _ .vmax | .chan _ _ .tol => .config

/-- WMASK(a): the bits a WR stores (40_host_interface.md R83); none of a read-only register. -/
def wmask : Reg → Word
  | .ctrl => 0x00003F01
  | .clkSrc _ => 0x800000FF
  | .chan _ _ .cctl => 0x00000007
  | .chan _ _ .reading => 0
  | .chan _ _ .r1 | .chan _ _ .r2 | .chan _ _ .cutoff | .chan _ _ .vmax | .chan _ _ .tol => 0xFFFFFFFF
  | .out _ .octl => 0x00000001
  | .out _ .desired => 0xFFFFFFFF
  | .status | .fault | .faultInfo | .events | .params => 0

/-- REG[a] <- x & WMASK(a): only the defined bits have storage (40_host_interface.md R83). -/
def State.writeReg (s : State) (r : Reg) (x : Word) : State :=
  match r with
  | .ctrl => s.setCtrl (ctrlOfWord x)
  | .clkSrc second => s.setClock second { s.clock second with src := clkSrcOfWord x }
  | .chan b c r =>
    match (s.bank b)[c]? with
    | some ch => s.setChan b c (writeChanReg ch r x)
    | none => s
  | .out o r =>
    match s.outputs[o]? with
    | some out => s.setOutput o (writeOutReg out r x)
    | none => s
  | .status | .fault | .faultInfo | .events | .params => s

end Sys2Proof.Machine
end

