-- ==== Sys2Proof/Machine/HostPort.lean ====
section
/-! DEFINITION. Host register access: NOP, RD, WR (40_host_interface.md R80 to R83). -/

namespace Sys2Proof.Machine

/-- NOP (R80): RES <- 0, in every mode. -/
def execNop (s : State) : Result := s.hostCommand true (fun s => s.setRes 0)

/-- RD (R81), the one command that works in HALTED: an unmapped address raises BAD_INDEX, but in HALTED it
answers 0. -/
def execRd (a : Addr) (s : State) : Result :=
  .next (match s.readAt a with
    | some w => s.setRes w
    | none => if s.mode = .halted then s.setRes 0 else s.raise .badIndex s.cw)

/-- The rule of WR (R82), its checks in order BAD_INDEX, READ_ONLY, CFG_LOCKED. -/
def writeRule (a : Addr) (s : State) : State :=
  match s.regAt a with
  | none => s.raise .badIndex s.cw
  | some r =>
    match regAccess r with
    | .readOnly => s.raise .readOnly s.cw
    | .config => if s.mode = .run then s.raise .cfgLocked s.cw else (s.writeReg r s.opa).setRes 0
    | .desired => (s.writeReg r s.opa).setRes 0

/-- WR (R82): OPA is the value. -/
def execWr (a : Addr) (s : State) : Result := s.hostCommand true (writeRule a)

end Sys2Proof.Machine
end

