-- ==== Sys2Proof/Machine/Quantizer.lean ====
section
/-! DEFINITION. The Scale Quantizer: QUANT (46_scale_quantizer.md). -/

namespace Sys2Proof.Machine

/-- The search loop of quant (R200): examine the lower and the upper candidate, and where neither is
enabled expand by one semitone on each side, wrapping at tones 0 and 11 with the octave shifts. `fuel` counts
the examinations. `pos` is P, the position in thousandths of a semitone. -/
def quantSearch (mask : BitVec 12) (pos : Int) : (fuel lo hi : Nat) → (shLo shHi : Int) → Option (Nat × Int)
  | 0, _, _, _, _ => none
  | fuel + 1, lo, hi, shLo, shHi =>
    match mask.getLsbD lo, mask.getLsbD hi with
    | true, true =>
      if pos - 1000 * (lo + 12 * shLo) ≤ 1000 * (hi + 12 * shHi) - pos then some (lo, shLo) else some (hi, shHi)
    | true, false => some (lo, shLo)
    | false, true => some (hi, shHi)
    | false, false =>
      quantSearch mask pos fuel (if lo = 0 then 11 else lo - 1) (if hi = 11 then 0 else hi + 1)
        (if lo = 0 then shLo - 1 else shLo) (if hi = 11 then shHi + 1 else shHi)

/-- octave: floor_div(mv, 1000) (R202). -/
def quantOct (mv : Int) : Int := floorDiv mv 1000

/-- P = 12 · rem, the continuous tone position × 1000 (R200, step 2). -/
def quantPos (mv : Int) : Int := 12 * (mv - 1000 * quantOct mv)

/-- floor_tone (R203). -/
def floorTone (mv : Int) : Nat := (floorDiv (quantPos mv) 1000).toNat

/-- ceil_tone before the wrap at 12: equal to floor_tone at an integer position (R203). -/
def ceilTone (mv : Int) : Nat :=
  if floorMod (quantPos mv) 1000 = 0 then floorTone mv else floorTone mv + 1

/-- The (tone, octave shift) that the search selects (R200, steps 3 to 6): one examination and at most 6
expansions (R207). -/
def quantTone (mv : Int) (mask : BitVec 12) : Option (Nat × Int) :=
  quantSearch mask (quantPos mv) 7 (floorTone mv) (if ceilTone mv = 12 then 0 else ceilTone mv) 0
    (if ceilTone mv = 12 then 1 else 0)

/-- quant(mv, mask) (R200): an empty scale returns the input. The search always finds a tone of a scale that
is not empty (R207). -/
def quant (p : Params) (mv : Int) (mask : BitVec 12) : Int :=
  if mask = 0 then mv
  else
    match quantTone mv mask with
    | some (t, sh) => 1000 * quantOct mv + 1000 * sh + toneMv p t
    | none => mv

/-- The rule of QUANT (R201): OPB[31:12] is ignored. -/
def quantRule (s : State) : State :=
  let r := quant s.params (s32 s.opa) (s.opb.extractLsb' 0 12)
  if fits32 r then s.setRes (w32 r) else s.raise .range s.cw

/-- QUANT (R201). -/
def execQuant (s : State) : Result := s.hostCommand true quantRule

end Sys2Proof.Machine
end

