-- ==== Sys2Proof/Machine/Dac.lean ====
section
/-! DEFINITION. The DAC Frame Encoder and serializer: DACENC, U_DACXFER and the frame on the wire
(43_dac_frame_encoder.md). -/

namespace Sys2Proof.Machine

/-- Step 1: clamp(v, 0, 4095) (R150). -/
def dacClamp (v : Int) : Int := clamp v 0 4095

/-- GA_n: 0 enables the 2× gain, for a clamped code above 2048 (R150, steps 2 and 3). -/
def dacGainN (v : Int) : Bool := decide (dacClamp v ≤ 2048)

/-- The payload before it is cut to 12 bits: the code at 2× gain, twice the code at 1× (R150). -/
def dacPayload (v : Int) : Int := if dacClamp v > 2048 then dacClamp v else 2 * dacClamp v

/-- enc(v, sel) (R150): the frame of code `v` for channel A (false) or B (true); `payload mod 4096` in the
12-bit field (90_conflicts.md C3). -/
def enc (v : Int) (sel : Bool) : Frame := mkFrame sel (dacGainN v) (BitVec.ofInt 12 (dacPayload v))

/-- DACENC (R151): nothing is sent. -/
def execDacenc (sel : Bool) (s : State) : Result :=
  s.hostCommand true (fun s => s.setRes ((enc (s32 s.opa) sel).setWidth 32))

/-- One change of a pin of the DAC bus (R156). -/
inductive PinEvent where
  /-- CS_n[k] <- level. -/
  | cs (k : Chip) (level : Bool)
  /-- SDI <- level. -/
  | sdi (level : Bool)
  /-- SCK <- level. -/
  | sck (level : Bool)
  /-- LDAC_n[k] <- level. -/
  | ldac (k : Chip) (level : Bool)
  deriving DecidableEq, Repr

/-- Drive one pin. -/
def drivePin (p : Pins) : PinEvent → Pins
  | .cs .chip0 b => { p with csN0 := b }
  | .cs .chip1 b => { p with csN1 := b }
  | .sdi b => { p with sdi := b }
  | .sck b => { p with sck := b }
  | .ldac .chip0 b => { p with ldacN0 := b }
  | .ldac .chip1 b => { p with ldacN1 := b }

/-- Drive the pins through a sequence. -/
def drivePins (p : Pins) (es : List PinEvent) : Pins := es.foldl drivePin p

/-- Frame position p of W on the wire (R158, step 2): SDI <- W[15 − p] before the rising edge of SCK, and SCK
low after. Once SCK has risen SDI may take any value: a free value (log entry 8). -/
def bitWave (w : Frame) (free : Nat) (p : Nat) : List PinEvent :=
  [.sdi (w.getLsbD (15 - p)), .sck true, .sdi (Config.freeBit (free + p)), .sck false]

/-- Step 2 of R158: the 16 positions in order. -/
def frameWave (w : Frame) (free : Nat) : List PinEvent := (List.range 16).flatMap (bitWave w free)

/-- Step 4 of R158: the load strobe, if it is wired. -/
def strobeWave (p : Params) (k : Chip) : List PinEvent :=
  if ldacWired p k then [.ldac k false, .ldac k true] else []

/-- Steps 1 to 4 of R158. Step 5, the settle interval, is the order of transfers (R159): every event of
this transfer comes before the next one's. -/
def transferWave (p : Params) (k : Chip) (w : Frame) (free : Nat) : List PinEvent :=
  [.cs k false] ++ frameWave w free ++ [.cs k true] ++ strobeWave p k

/-- U_DACXFER's rule (R157): drive the pins, then emit DacFrame(k, W). -/
def dacTransfer (k : Chip) (w : Frame) (s : State) : State :=
  ((s.setPins (drivePins s.pins (transferWave s.params k w s.free))).takeFree 16).emit (.dacFrame k w)

/-- U_DACXFER (R157): the frame is OPA[15:0]. By itself it acts in every mode,
HALTED among them: DESIGN CHOICE, log entry 27. -/
def execUDacxfer (chip : Bool) (s : State) : Result :=
  .next (dacTransfer (chipOfCode chip) (s.opa.extractLsb' 0 16) s)

/-- The chip that takes the 16 bits on the bus: the one whose CS_n alone is low (R158). -/
def selectedChip (p : Pins) : Option Chip :=
  if p.csN0 = false ∧ p.csN1 = true then some .chip0
  else if p.csN0 = true ∧ p.csN1 = false then some .chip1
  else none

/-- A frame by itself on the wire: step 2 of R158, with the chip selects as they stand. It is no transfer, so the
trace gains no event (10_state.md R41). DEDUCED, log entry 6. -/
def shiftFrame (w : Frame) (s : State) : State :=
  (s.setPins (drivePins s.pins (frameWave w s.free))).takeFree 16

/-- DAC_FRAME (30_encoding.md R70 to R73): the frame is shifted out. By itself it acts in every mode,
HALTED among them: DESIGN CHOICE, log entry 27. -/
def execDacFrame (sel gaN : Bool) (code : BitVec 12) (s : State) : Result :=
  .next (shiftFrame (mkFrame sel gaN code) s)

end Sys2Proof.Machine
end

