-- ==== Sys2Proof/Machine/ChangeFilter.lean ====
section
/-! DEFINITION. The Output Change Filter: U_COMMIT (44_output_change_filter.md). -/

namespace Sys2Proof.Machine

/-- rank(o): the number of analog outputs below `o`, for an analog output `o` its place among them
(43_dac_frame_encoder.md R154). -/
def rank (s : State) (o : Nat) : Nat := (s.outputs.take o).countP (·.analog)

/-- The chip and channel (false = A, true = B) of a rank: floor_div(rank, 2) and rank mod 2. There are four
DAC channels, so a rank above 3 has none (R154, R155). -/
def dacTarget (k : Nat) : Option (Chip × Bool) :=
  match k with
  | 0 => some (.chip0, false)
  | 1 => some (.chip0, true)
  | 2 => some (.chip1, false)
  | 3 => some (.chip1, true)
  | _ => none

/-- "unconditionally write when different, then update the committed value" (R174, R175), for output `o`
with the record `out`. START lets no analog output have a rank above 3 (R155); in a state no run reaches, an
output with no DAC channel is not written (log entry 11). -/
def writeOutput (o : Nat) (out : Output) (s : State) : State :=
  if out.analog then
    match dacTarget (rank s o) with
    | some (chip, sel) =>
      (dacTransfer chip (enc (s32 out.desired) sel) s).setOutput o { out with committed := some out.desired }
    | none => s
  else
    (s.emit (.digitalWrite o (decide (s32 out.desired ≠ 0)))).setOutput o
      { out with dout := decide (s32 out.desired ≠ 0), committed := some out.desired }

/-- U_COMMIT's rule (R174): skip when COMMITTED equals DESIRED; NONE differs from every value (R173). -/
def commitOutput (o : Nat) (s : State) : State :=
  match s.outputs[o]? with
  | none => s
  | some out => if out.committed = some out.desired then s else writeOutput o out s

/-- Does output `o` exist, with a DAC channel if it is analog? -/
def canCommit (o : Nat) (s : State) : Bool :=
  match s.outputs[o]? with
  | none => false
  | some out => !out.analog || (dacTarget (rank s o)).isSome

/-- U_COMMIT (R174). By itself it acts in every mode,
HALTED among them: DESIGN CHOICE, log entry 27. -/
def execUCommit (output : BitVec 16) (s : State) : Result :=
  if canCommit output.toNat s then .next (commitOutput output.toNat s) else .refused .neverIssued

end Sys2Proof.Machine
end

