-- ==== Sys2Proof/Machine/ClockDetector.lean ====
section
/-! DEFINITION. The two Clock Edge Detectors: U_CLKDET (42_clock_edge_detector.md). -/

namespace Sys2Proof.Machine

/-- The level a detector reads: READING[1][IDX] ≠ 0 (R137). START guarantees IDX < N_IN for an enabled
detector; in a state no run reaches there is no channel to read, and no level is high (log entry 11). -/
def clockLevel (s : State) (idx : BitVec 8) : Bool :=
  match s.inputs[idx.toNat]? with
  | some ch => decide (s32 ch.reading ≠ 0)
  | none => false

/-- The two-state machine on one level (R138): a rise out of AwaitingRise, a fall out of AwaitingFall,
nothing on a steady level. -/
def detect (lv : Bool) (c : Clock) : Clock :=
  if c.level = false ∧ lv = true then { c with level := true, rise := true }
  else if c.level = true ∧ lv = false then { c with level := false, fall := true }
  else c

/-- The rise and fall hooks of a detector and their CTRL enables (R138, 45_step_orchestrator.md R180). -/
def riseHook (second : Bool) : Hook := if second then .rise2 else .rise1
@[inherit_doc riseHook]
def fallHook (second : Bool) : Hook := if second then .fall2 else .fall1
@[inherit_doc riseHook]
def heRise (c : Ctrl) (second : Bool) : Bool := if second then c.heRise2 else c.heRise1
@[inherit_doc riseHook]
def heFall (c : Ctrl) (second : Bool) : Bool := if second then c.heFall2 else c.heFall1

/-- The hook a detector requests when its level goes from `old` to `lv`, if its enable bit is 1 (R138). -/
def edgeHook (c : Ctrl) (second old lv : Bool) : Option Hook :=
  if old = false ∧ lv = true then (if heRise c second then some (riseHook second) else none)
  else if old = true ∧ lv = false then (if heFall c second then some (fallHook second) else none)
  else none

/-- U_CLKDET's rule (R138). A disabled detector does nothing (R139). -/
def clkdet (second : Bool) (s : State) : State :=
  if (s.clock second).src.en = false then s
  else
    let lv := clockLevel s (s.clock second).src.idx
    let s1 := s.setClock second (detect lv (s.clock second))
    match edgeHook s.ctrl second (s.clock second).level lv with
    | some h => s1.requestHook h
    | none => s1

/-- Is the source of the detector a channel of the inputs bank? START guarantees it for an enabled detector
(R138); a disabled one reads nothing (R139). -/
def clockReadable (second : Bool) (s : State) : Bool :=
  !(s.clock second).src.en || decide ((s.clock second).src.idx.toNat < s.inputs.length)

/-- U_CLKDET (R138). By itself it acts in every mode,
HALTED among them: DESIGN CHOICE, log entry 27. -/
def execUClkdet (second : Bool) (s : State) : Result :=
  if clockReadable second s then .next (clkdet second s) else .refused .neverIssued

end Sys2Proof.Machine
end

