-- ==== Sys2Proof/Machine/Conditioner.lean ====
section
/-! DEFINITION. The Signal Conditioner: CONV, THRESH, PCT, U_SMOOTH, U_COND (41_signal_conditioner.md). -/

namespace Sys2Proof.Machine

/-- The exact value of conv(s, r1, r2) before it is narrowed (R120), for a legal divider. -/
def convExact (p : Params) (smp r1 r2 : Nat) : Int :=
  if r1 = 0 ∧ r2 = 0 then floorDiv (smp * vrefMv p) (adcRes p)
  else floorDiv (smp * vrefMv p * (r1 + r2)) (adcRes p * r2)

/-- conv(s, r1, r2) (R120), or the fault code it raises. -/
def conv (p : Params) (smp r1 r2 : Nat) : Except FaultCode Word :=
  if r1 ≠ 0 ∧ r2 = 0 then .error .divZero
  else if fits32 (convExact p smp r1 r2) then .ok (w32 (convExact p smp r1 r2))
  else .error .range

/-- The pushed history [H[1], ..., H[7], mv]: the oldest is evicted, the newest is at the tail (R123). -/
def histPush (h : Hist) (mv : Word) : Hist := ⟨h.h1, h.h2, h.h3, h.h4, h.h5, h.h6, h.h7, mv⟩

/-- The sum of the eight entries. -/
def histSum (h : Hist) : Int :=
  s32 h.h0 + s32 h.h1 + s32 h.h2 + s32 h.h3 + s32 h.h4 + s32 h.h5 + s32 h.h6 + s32 h.h7

/-- The integer mean of the eight entries, rounded down (R123). -/
def histMean (h : Hist) : Word := w32 (floorDiv (histSum h) 8)

/-- thresh(mv, cut): 1 exactly when mv > cut (R126). -/
def threshVal (mv cut : Word) : Word := boolWord (decide (s32 mv > s32 cut))

/-- pct(mv, vmax, tol, rev) for nonzero vmax and tol (R127). -/
def pctExact (mv : Int) (vmax tol : Nat) (rev : Bool) : Int :=
  let p := clamp (floorDiv (mv * 100) vmax) 0 100
  let q := p - floorMod p tol
  if rev then 100 - q else q

/-- pct(mv, vmax, tol, rev) (R127), or the fault code it raises. -/
def pct (mv vmax tol : Word) (rev : Bool) : Except FaultCode Word :=
  if u32 vmax = 0 ∨ u32 tol = 0 then .error .divZero
  else .ok (w32 (pctExact (s32 mv) (u32 vmax) (u32 tol) rev))

/-- The rule of CONV (R121): DIV_ZERO, then RANGE for a sample above ADC_MAX, then conv's own RANGE. -/
def convRule (s : State) : State :=
  if u32 s.opb ≠ 0 ∧ u32 s.opc = 0 then s.raise .divZero s.cw
  else if u32 s.opa > adcMax s.params then s.raise .range s.cw
  else
    match conv s.params (u32 s.opa) (u32 s.opb) (u32 s.opc) with
    | .ok mv => s.setRes mv
    | .error code => s.raise code s.cw

/-- CONV (R121). -/
def execConv (s : State) : Result := s.hostCommand true convRule

/-- THRESH (R126). -/
def execThresh (s : State) : Result := s.hostCommand true (fun s => s.setRes (threshVal s.opa s.opb))

/-- The rule of PCT (R128). -/
def pctRule (rev : Bool) (s : State) : State :=
  match pct s.opa s.opb s.opc rev with
  | .ok p => s.setRes p
  | .error code => s.raise code s.cw

/-- PCT and PCT.REV (R128). -/
def execPct (rev : Bool) (s : State) : Result := s.hostCommand true (pctRule rev)

/-- HIST[b][c] <- H' (R124). A channel the bank does not have is left alone. -/
def smoothChan (b : Bank) (c : Nat) (mv : Word) (s : State) : State :=
  match (s.bank b)[c]? with
  | some ch => s.setChan b c { ch with hist := histPush ch.hist mv }
  | none => s

/-- READING[b][c] <- v (R131). -/
def publishReading (b : Bank) (c : Nat) (v : Word) (s : State) : State :=
  match (s.bank b)[c]? with
  | some ch => s.setChan b c { ch with reading := v }
  | none => s

/-- The smoothed reading of a channel whose next conditioned reading is `mv`, or `mv` itself where SMOOTH = 0
(R130). -/
def smoothedValue (ch : Channel) (mv : Word) : Word :=
  if ch.smooth then histMean (histPush ch.hist mv) else mv

/-- publish(b, c, mv) after the smoothing (R130, 10_state.md R35): the value a channel exposes, from its
smoothed reading `v`. -/
def publishValue (b : Bank) (ch : Channel) (v : Word) : Except FaultCode Word :=
  match b with
  | .inputs => .ok (if ch.digital then threshVal v ch.cutoff else v)
  | .pots => pct v ch.vmax ch.tol ch.rev
  | .switches => .ok (threshVal v ch.cutoff)

/-- The address of READING[b][c], the FAULT_INFO of a fault in U_COND (R131). -/
def readingInfo (b : Bank) (c : Nat) : Word := BitVec.ofNat 32 (chanRegAddr b c .reading)

/-- U_COND's rule (R131) for bank `b`, channel `c`: draw, convert, smooth, publish. A raise keeps the writes
before it: a RANGE leaves HIST and READING, as conv comes first. DIV_ZERO cannot occur in a cycle, START having
checked the configuration; in a state no run reaches it is raised with the same information word (R120, log
entry 23). -/
def condChan (b : Bank) (c : Nat) (s : State) : State :=
  match (s.bank b)[c]? with
  | none => s
  | some ch =>
    match conv s.params s.sample (u32 ch.r1) (u32 ch.r2) with
    | .error code => s.afterSample.raise code (readingInfo b c)
    | .ok mv =>
      let s1 := if ch.smooth then smoothChan b c mv s.afterSample else s.afterSample
      match publishValue b ch (smoothedValue ch mv) with
      | .error code => s1.raise code (readingInfo b c)
      | .ok v => publishReading b c v s1

/-- U_COND (R131). By itself it acts in every mode,
HALTED among them: DESIGN CHOICE, log entry 27. -/
def execUCond (bank : BitVec 2) (channel : BitVec 16) (s : State) : Result :=
  match bankOfCode bank with
  | some b =>
    if channel.toNat < (s.bank b).length then .next (condChan b channel.toNat s) else .refused .neverIssued
  | none => .refused .neverIssued

/-- U_SMOOTH (R124): the reading is OPA. The mean it returns goes to U_COND (`smoothedValue`). By itself
it acts in every mode, HALTED among them: DESIGN CHOICE, log entry 27. -/
def execUSmooth (bank : BitVec 2) (channel : BitVec 16) (s : State) : Result :=
  match bankOfCode bank with
  | some b =>
    if channel.toNat < (s.bank b).length then .next (smoothChan b channel.toNat s.opa s)
    else .refused .neverIssued
  | none => .refused .neverIssued

end Sys2Proof.Machine
end

