-- ==== Sys2Proof/Machine/Sequencer.lean ====
section
/-! DEFINITION. The Step Orchestrator: START, STEP, ACK, U_HOOK and the cycle (45_step_orchestrator.md). -/

namespace Sys2Proof.Machine

/-! ### START -/

/-- The number of analog outputs. -/
def analogCount (s : State) : Nat := s.outputs.countP (·.analog)

/-- Check 2 of R182 on one clock: BAD_INDEX at the address of its CLKn_SRC. -/
def clockFault (s : State) (second : Bool) : Option (FaultCode × Word) :=
  if (s.clock second).src.en = true ∧ (s.clock second).src.idx.toNat ≥ s.inputs.length then
    some (.badIndex, BitVec.ofNat 32 (regAddr (.clkSrc second)))
  else none

/-- Check 3 of R182 on the divider of channel `c` of bank `b`: DIV_ZERO at the address of R2. -/
def dividerFault (s : State) (b : Bank) (c : Nat) : Option (FaultCode × Word) :=
  match (s.bank b)[c]? with
  | some ch =>
    if u32 ch.r1 ≠ 0 ∧ u32 ch.r2 = 0 then some (.divZero, BitVec.ofNat 32 (chanRegAddr b c .r2)) else none
  | none => none

/-- Check 3 of R182 on pot `c`: DIV_ZERO at the address of VMAX, then of TOL. -/
def potFault (s : State) (c : Nat) : Option (FaultCode × Word) :=
  match s.pots[c]? with
  | some ch =>
    if u32 ch.vmax = 0 then some (.divZero, BitVec.ofNat 32 (chanRegAddr .pots c .vmax))
    else if u32 ch.tol = 0 then some (.divZero, BitVec.ofNat 32 (chanRegAddr .pots c .tol))
    else none
  | none => none

/-- The dividers of a bank in ascending channel order. -/
def bankFault (s : State) (b : Bank) : Option (FaultCode × Word) :=
  (List.range (s.bank b).length).findSome? (dividerFault s b)

/-- The checks of START in their order (R182): the first that fails, with its information word. -/
def configFault (s : State) : Option (FaultCode × Word) :=
  if analogCount s > 4 then some (.tooManyAout, BitVec.ofNat 32 (analogCount s))
  else
    (clockFault s false).or <| (clockFault s true).or <|
    (bankFault s .inputs).or <| (bankFault s .pots).or <| (bankFault s .switches).or <|
    (List.range s.pots.length).findSome? (potFault s)

/-- Part 4 of R182: enter RUN, and stop for the START hook if it is enabled. -/
def enterRun (s : State) : State :=
  let s1 := (s.setMode .run).setRes 0
  if s1.ctrl.heStart then (s1.setPhase .startHook).requestHook .start else s1.setPhase .idle

/-- The rule of START (R182). -/
def startRule (s : State) : State :=
  match configFault s with
  | some (code, info) => s.raise code info
  | none => enterRun s

/-- START (R182): allowed in CONFIG only. -/
def execStart (s : State) : Result := s.hostCommand (decide (s.mode = .config)) startRule

/-! ### The cycle -/

/-- Condition the channels of a bank in ascending order; a raise ends it (R186, 41_signal_conditioner.md R132). -/
def condBank (b : Bank) (s : State) : State :=
  (List.range (s.bank b).length).foldl (fun t c => t.unlessHalted (condChan b c)) s

/-- EVENTS[3:0] <- 0 (R187). -/
def clearEvents (s : State) : State :=
  (s.setClock false { s.clk1 with rise := false, fall := false }).setClock true
    { s.clk2 with rise := false, fall := false }

/-- Filter and flush the outputs in ascending order (R186, 44_output_change_filter.md R176). -/
def commitAll (s : State) : State := (List.range s.outputs.length).foldl (fun t o => commitOutput o t) s

/-- The end of a cycle: DEBUG_DELAY if CTRL.DEBUG = 1 (R194), then IDLE. -/
def endCycle (s : State) : State :=
  (if s.ctrl.debug then s.setPhase .debugDelay else s).setPhase .idle

/-- Sequence(COMMIT) (R186). -/
def seqCommit (s : State) : State := endCycle (commitAll (s.setPhase .commit))

/-- Sequence(STEP_HOOK) (R186). -/
def seqStepHook (s : State) : State :=
  if s.ctrl.heStep then (s.setPhase .stepHook).requestHook .step else seqCommit s

/-- Sequence(CLK2) (R186). -/
def seqClk2 (s : State) : State := (clkdet true (s.setPhase .clk2)).unlessHooked seqStepHook

/-- Sequence(CLK1) (R186). -/
def seqClk1 (s : State) : State := (clkdet false (s.setPhase .clk1)).unlessHooked seqClk2

/-- Sequence(COND_SW) (R186). -/
def seqCondSw (s : State) : State := (condBank .switches (s.setPhase .condSw)).unlessHalted seqClk1

/-- Sequence(COND_POT) (R186). -/
def seqCondPot (s : State) : State := (condBank .pots (s.setPhase .condPot)).unlessHalted seqCondSw

/-- Sequence(COND_IN), a whole cycle (R186). -/
def seqCondIn (s : State) : State :=
  (condBank .inputs (clearEvents (s.setPhase .condIn))).unlessHalted seqCondPot

/-- The rule of STEP (R183). -/
def stepRule (s : State) : State := seqCondIn (s.setRes 0)

/-- STEP (R183): allowed in RUN at IDLE with no hook pending. -/
def execStep (s : State) : Result :=
  s.hostCommand (decide (s.mode = .run ∧ s.phase = .idle ∧ s.hook = .none)) stepRule

/-- Where the sequence goes on after hook `h` has been answered (R184). -/
def resumeAfter (h : Hook) (s : State) : State :=
  match h with
  | .start => s.setPhase .idle
  | .rise1 | .fall1 => seqClk2 s
  | .rise2 | .fall2 => seqStepHook s
  | .step => seqCommit s
  | .none => s

/-- The rule of ACK (R184). -/
def ackRule (s : State) : State := resumeAfter s.hook (s.setRes 0).returnHook

/-- ACK (R184): allowed in RUN with a hook pending. -/
def execAck (s : State) : Result := s.hostCommand (decide (s.mode = .run ∧ s.hook ≠ .none)) ackRule

/-- U_HOOK (R191). By itself it acts in every mode,
HALTED among them: DESIGN CHOICE, log entry 27. -/
def execUHook (kind : BitVec 3) (s : State) : Result :=
  match hookOfCode kind with
  | some h => .next (s.requestHook h)
  | none => .refused .neverIssued

end Sys2Proof.Machine
end

