-- ==== Sys2Proof/Machine/Dispatch.lean ====
section
/-! DEFINITION. The dispatch of every instruction to its meaning. -/

namespace Sys2Proof.Machine

def exec (i : Instr) (s : State) : Host.Outcome State Fault Refusal :=
  match i with
  | .nop => Sys2Proof.Machine.execNop s
  | .rd addr => Sys2Proof.Machine.execRd addr s
  | .wr addr => Sys2Proof.Machine.execWr addr s
  | .start => Sys2Proof.Machine.execStart s
  | .step => Sys2Proof.Machine.execStep s
  | .ack => Sys2Proof.Machine.execAck s
  | .conv => Sys2Proof.Machine.execConv s
  | .thresh => Sys2Proof.Machine.execThresh s
  | .pct rev => Sys2Proof.Machine.execPct rev s
  | .quant => Sys2Proof.Machine.execQuant s
  | .dacenc sel => Sys2Proof.Machine.execDacenc sel s
  | .uCond bank channel => Sys2Proof.Machine.execUCond bank channel s
  | .uSmooth bank channel => Sys2Proof.Machine.execUSmooth bank channel s
  | .uClkdet second => Sys2Proof.Machine.execUClkdet second s
  | .uCommit output => Sys2Proof.Machine.execUCommit output s
  | .uDacxfer chip => Sys2Proof.Machine.execUDacxfer chip s
  | .uHook kind => Sys2Proof.Machine.execUHook kind s
  | .dacFrame sel gaN code => Sys2Proof.Machine.execDacFrame sel gaN code s

end Sys2Proof.Machine
end

