-- ==== Sys2Proof/Machine/Fetch.lean ====
section
/-! DEFINITION. How the machine comes by what it performs next: the command port (10_state.md R18,
30_encoding.md R74), reset (70_reset_and_hazards.md R232) and the model's own inputs that run one micro-operation
or frame by itself (log entry 4). -/

namespace Sys2Proof.Machine

/-- RST asserted and released (70_reset_and_hazards.md R232, R234): every state element of 10_state.md R17
takes its reset value, the trace stays, PARAMS and the parameters are constants. DOUT is at any value until the
next DigitalWrite: free values (log entry 7). The inputs still to come and the free values are not the block's. -/
def State.rst (s : State) : State where
  params := s.params
  inbox := s.inbox
  samples := s.samples
  free := s.free + s.outputs.length
  cw := 0
  opa := 0
  opb := 0
  opc := 0
  res := 0
  mode := .config
  hook := .none
  phase := .idle
  faultCode := .none
  faultInfo := 0
  ctrl := Ctrl.reset
  clk1 := Clock.reset
  clk2 := Clock.reset
  inputs := s.inputs.map (fun _ => Channel.reset)
  pots := s.pots.map (fun _ => Channel.reset)
  switches := s.switches.map (fun _ => Channel.reset)
  outputs := s.outputs.mapIdx (fun o _ => Output.reset (Config.freeBit (s.free + o)))
  pins := Pins.reset
  trace := s.trace

/-- A command word that is no legal host command (60_exceptions.md R218): ILLEGAL_CMD with FAULT_INFO = CW, and
in HALTED only RES <- 0 (R220). -/
def illegalCw (s : State) : State :=
  if s.mode = .halted then s.setRes 0 else s.raise .illegalCmd s.cw

/-- What the next step performs. -/
inductive Fetched where
  /-- No input: the block waits for the host (70_reset_and_hazards.md R233). -/
  | waits
  /-- RST. -/
  | resets (s : State)
  /-- A host command that is not legal, in its latched state. -/
  | illegal (s : State)
  /-- An instruction, in the state with its operands latched. -/
  | runs (i : Instr) (s : State)
  /-- A micro-operation word that the sequencer never issues, or a frame word that is none. -/
  | never
  deriving DecidableEq, Repr

/-- A host command arrives (R218): its latches are written, and its CW is checked for legality. -/
def fetchHost (c : Cmd) (s : State) : Fetched :=
  match decodeCmd c.cw with
  | .ok i => if i.isHost then .runs i (s.latch c) else .illegal (s.latch c)
  | .error _ => .illegal (s.latch c)

/-- The sequencer performs one micro-operation, its word and OPA in the latches (30_encoding.md R65, R66). No
mode is checked: DESIGN CHOICE, log entry 27. -/
def fetchMicro (cw opa : Word) (s : State) : Fetched :=
  match decodeCmd cw with
  | .ok i => if i.isHost then .never else .runs i (s.latch ⟨cw, opa, s.opb, s.opc⟩)
  | .error _ => .never

/-- A frame is put on the wire. No mode is checked: DESIGN CHOICE, log entry 27. -/
def fetchFrame (w : Frame) (s : State) : Fetched :=
  match decodeFrame w with
  | .ok i => .runs i s
  | .error _ => .never

/-- What the next step performs, in what state: the next input. -/
def fetch (s : State) : Fetched :=
  match s.inbox with
  | [] => .waits
  | .rst :: rest => .resets { s with inbox := rest }.rst
  | .cmd c :: rest => fetchHost c { s with inbox := rest }
  | .micro cw opa :: rest => fetchMicro cw opa { s with inbox := rest }
  | .frame w :: rest => fetchFrame w { s with inbox := rest }

/-- The input that runs the word of `nbits` bits: a host command with its operand words 0, an internal
micro-operation with OPA 0, or a frame. -/
def inputOfTable (nbits w : Nat) : Input :=
  match rawOfTable nbits w with
  | .frame f => .frame f
  | .cmd cw => if cw.getLsbD 31 then .micro cw 0 else .cmd ⟨cw, 0, 0, 0⟩

/-- `s` with the word of `nbits` bits placed where the next step finds it: as its next input. -/
def placeFetchWord (s : State) (nbits w : Nat) : State := { s with inbox := inputOfTable nbits w :: s.inbox }

end Sys2Proof.Machine
end

