-- ==== Sys2Proof/Machine/Step.lean ====
section
/-! DEFINITION. One step of the machine: one host command from its issue to its end (20_memory.md R57), a
reset, or the wait for an input. -/

namespace Sys2Proof.Machine

/-- One step. With no input the block waits and nothing changes (70_reset_and_hazards.md R233, log entry 2). -/
def step (s : State) : Host.Outcome State Fault Refusal :=
  match fetch s with
  | .waits => .next s
  | .resets t => .next t
  | .illegal t => .next (illegalCw t)
  | .runs i t => exec i t
  | .never => .refused .neverIssued

/-- `s` with an instruction word placed where the next step finds it (log entries 2 and 4). -/
def State.withFetchWord (s : State) (nbits w : Nat) : State := placeFetchWord s nbits w

end Sys2Proof.Machine
end

