-- ==== Sys2Proof/Safety.lean ====
section
/-! DEFINITION. What counts as a safe state and the views of a state that claims speak of: the wait points
(45_step_orchestrator.md R185), the configuration (10_state.md R43), the ranges of the published values
(R34), and the reference forms of a commit phase and of a channel's conditioning. -/

namespace Sys2Proof.Machine

/-! ### The pieces of the invariant -/

/-- The wait points of RUN (45_step_orchestrator.md R185). -/
def runWaitPoint (s : State) : Prop :=
  (s.phase = .idle ∧ s.hook = .none) ∨
  (s.phase = .startHook ∧ s.hook = .start) ∨
  (s.phase = .clk1 ∧ (s.hook = .rise1 ∨ s.hook = .fall1)) ∨
  (s.phase = .clk2 ∧ (s.hook = .rise2 ∨ s.hook = .fall2)) ∨
  (s.phase = .stepHook ∧ s.hook = .step)

/-- The wait points of the block (45_step_orchestrator.md R185): "every command ends in one of them". -/
def atWaitPoint (s : State) : Prop :=
  (s.mode = .config ∧ s.phase = .idle ∧ s.hook = .none) ∨
  (s.mode = .run ∧ runWaitPoint s) ∨
  s.mode = .halted

/-- The fault record is filled exactly in HALTED (10_state.md R24, R25; 60_exceptions.md R216). -/
def faultRecordOk (s : State) : Prop :=
  (s.mode = .halted ↔ s.faultCode ≠ .none) ∧ (s.mode ≠ .halted → s.faultInfo = 0)

/-- The counts are in the range of 00_scope.md R7. -/
def sized (s : State) : Prop :=
  s.inputs.length ≤ 32 ∧ s.pots.length ≤ 32 ∧ s.switches.length ≤ 32 ∧ s.outputs.length ≤ 32

/-- The idle levels of the DAC bus (10_state.md R42); SDI is at any level between transfers. -/
def busIdle (p : Pins) : Prop :=
  p.csN0 = true ∧ p.csN1 = true ∧ p.sck = false ∧ p.ldacN0 = true ∧ p.ldacN1 = true

/-- What holds of a detector between commands: at most one event in a cycle, and the event agrees with the
level (42_clock_edge_detector.md R138, R141); a disabled one is in its reset state (R139). -/
def clockOk (m : Mode) (c : Clock) : Prop :=
  (c.rise = true → c.level = true) ∧
  (c.fall = true → c.level = false) ∧
  (m = .config ∨ c.src.en = false → c.level = false ∧ c.rise = false ∧ c.fall = false)

/-- The range of READING by bank (10_state.md R34). -/
def readingInRange (b : Bank) (ch : Channel) : Prop :=
  match b with
  | .inputs => if ch.digital then ch.reading = 0 ∨ ch.reading = 1 else 0 ≤ s32 ch.reading
  | .pots => 0 ≤ s32 ch.reading ∧ s32 ch.reading ≤ 100
  | .switches => ch.reading = 0 ∨ ch.reading = 1

/-- The entries of a history are conditioned readings, which are never negative (41_signal_conditioner.md R121,
R123). -/
def histNonneg (h : Hist) : Prop :=
  0 ≤ s32 h.h0 ∧ 0 ≤ s32 h.h1 ∧ 0 ≤ s32 h.h2 ∧ 0 ≤ s32 h.h3 ∧
  0 ≤ s32 h.h4 ∧ 0 ≤ s32 h.h5 ∧ 0 ≤ s32 h.h6 ∧ 0 ≤ s32 h.h7

/-- What holds of a channel: in CONFIG nothing has been published yet (10_state.md R34, 45_step_orchestrator.md
R193), and afterwards READING is in its bank's range. -/
def channelOk (m : Mode) (b : Bank) (ch : Channel) : Prop :=
  readingInRange b ch ∧ histNonneg ch.hist ∧ (m = .config → ch.reading = 0)

/-! ### The configuration -/

/-- A divider that START accepts (45_step_orchestrator.md R182). -/
def dividerOk (ch : Channel) : Prop := u32 ch.r1 = 0 ∨ u32 ch.r2 ≠ 0

/-- A clock that START accepts (45_step_orchestrator.md R182). -/
def clockSrcOk (s : State) (c : Clock) : Prop := c.src.en = true → c.src.idx.toNat < s.inputs.length

/-- A configuration that START accepts (45_step_orchestrator.md R182), rule by rule. -/
def configOk (s : State) : Prop :=
  s.outputs.countP (·.analog) ≤ 4 ∧
  clockSrcOk s s.clk1 ∧ clockSrcOk s s.clk2 ∧
  (∀ b, ∀ ch ∈ s.bank b, dividerOk ch) ∧
  (∀ ch ∈ s.pots, u32 ch.vmax ≠ 0 ∧ u32 ch.tol ≠ 0)

/-- The configuration of a channel: all its fields but READING and HIST (10_state.md R17 (4)). -/
structure ChannelConfig where
  digital : Bool
  smooth : Bool
  rev : Bool
  r1 : Word
  r2 : Word
  cutoff : Word
  vmax : Word
  tol : Word
  deriving DecidableEq, Repr

/-- The configuration part of a channel. -/
def Channel.configView (ch : Channel) : ChannelConfig :=
  ⟨ch.digital, ch.smooth, ch.rev, ch.r1, ch.r2, ch.cutoff, ch.vmax, ch.tol⟩

/-- All configuration registers of the block (10_state.md R17 (4), R43), the counts among them. -/
structure Configuration where
  params : Params
  ctrl : Ctrl
  clk1Src : ClkSrc
  clk2Src : ClkSrc
  inputs : List ChannelConfig
  pots : List ChannelConfig
  switches : List ChannelConfig
  analog : List Bool
  deriving DecidableEq, Repr

/-- The configuration of a state. -/
def State.configView (s : State) : Configuration where
  params := s.params
  ctrl := s.ctrl
  clk1Src := s.clk1.src
  clk2Src := s.clk2.src
  inputs := s.inputs.map Channel.configView
  pots := s.pots.map Channel.configView
  switches := s.switches.map Channel.configView
  analog := s.outputs.map (·.analog)

/-! ### The invariant -/

/-- What holds of every state a run reaches, between commands. What is still to come is what a host can present
(log entry 4); each other part names its rule above. -/
structure RunInv (s : State) : Prop where
  hostOnly : ∀ x ∈ s.inbox, x.fromHost = true
  counts : sized s
  waits : atWaitPoint s
  record : faultRecordOk s
  bus : busIdle s.pins
  clock1 : clockOk s.mode s.clk1
  clock2 : clockOk s.mode s.clk2
  channels : ∀ b, ∀ ch ∈ s.bank b, channelOk s.mode b ch
  validated : s.mode = .run → configOk s
  /-- While a CLK1 hook waits, CLK2 has not run in the cycle, and its events are cleared (45_step_orchestrator.md
  R186, R187). -/
  secondClear : s.mode = .run → s.phase = .clk1 → s.clk2.rise = false ∧ s.clk2.fall = false

/-! ### Reference forms -/

/-- One cycle of a detector: its event bits are cleared, then it sees the level (45_step_orchestrator.md R187,
42_clock_edge_detector.md R138). -/
def detectCycle (c : Clock) (lv : Bool) : Clock := detect lv { c with rise := false, fall := false }

/-- The (rise, fall) events of an enabled detector over the levels of successive cycles (R141). -/
def edgeEvents (c : Clock) : List Bool → List (Bool × Bool)
  | [] => []
  | lv :: rest => ((detectCycle c lv).rise, (detectCycle c lv).fall) :: edgeEvents (detectCycle c lv) rest

/-- The hardware write that a COMMIT phase owes output `o` (44_output_change_filter.md R174, R177), read off
the state before the phase. -/
def owedWrite (s : State) (o : Nat) (out : Output) : Option BusEvent :=
  if out.committed = some out.desired then none
  else if out.analog then
    (dacTarget (rank s o)).map (fun t => .dacFrame t.1 (enc (s32 out.desired) t.2))
  else some (.digitalWrite o (decide (s32 out.desired ≠ 0)))

/-- The hardware writes that a COMMIT phase owes, in ascending output order (R176). -/
def owedWrites (s : State) : List BusEvent :=
  s.outputs.zipIdx.filterMap (fun x => owedWrite s x.2 x.1)

/-- The SDI levels at the rising edges of SCK while the chip's CS_n is low and the other's is high, in order:
what chip `k` samples (43_dac_frame_encoder.md R158). -/
def sampledBits (k : Chip) : Pins → List PinEvent → List Bool
  | _, [] => []
  | p, e :: rest =>
    let here := if p.sck = false ∧ e = .sck true ∧ selectedChip p = some k then [p.sdi] else []
    here ++ sampledBits k (drivePin p e) rest

/-- The number of rising edges of SCK in a pin sequence. -/
def risingEdges : Pins → List PinEvent → Nat
  | _, [] => 0
  | p, e :: rest =>
    (if p.sck = false ∧ e = .sck true then 1 else 0) + risingEdges (drivePin p e) rest

/-- A channel after U_COND with the raw sample `smp`, where nothing is raised (41_signal_conditioner.md R130, R131):
`mv` is the converted reading. -/
def conditioned (p : Params) (b : Bank) (smp : Nat) (ch : Channel) : Option Channel :=
  match conv p smp (u32 ch.r1) (u32 ch.r2) with
  | .error _ => none
  | .ok mv =>
    match publishValue b ch (smoothedValue ch mv) with
    | .error _ => none
    | .ok v => some { ch with hist := if ch.smooth then histPush ch.hist mv else ch.hist, reading := v }

/-- The n-th raw sample, from 0, that is drawn from `s` on: the listed ones first, then free values (10_state.md R37,
the model's draws, log entry 3). -/
def drawAt (s : State) (n : Nat) : Nat :=
  (match s.samples[n]? with
    | some x => x.toNat
    | none => (Config.freeSample (s.free + (n - s.samples.length))).toNat) % 2 ^ adcBits s.params

/-- The state after `n` draws from `s` and nothing else. -/
def State.drawn (s : State) (n : Nat) : State :=
  { s with samples := s.samples.drop n, free := s.free + (n - s.samples.length) }

/-- Which draw of a cycle is that of channel `c` of bank `b`: inputs, pots, switches, each in ascending order
(45_step_orchestrator.md R186). -/
def drawIndex (s : State) (b : Bank) (c : Nat) : Nat :=
  match b with
  | .inputs => c
  | .pots => s.inputs.length + c
  | .switches => s.inputs.length + s.pots.length + c

/-- What one cycle makes of a detector, once the inputs bank holds the cycle's readings (45_step_orchestrator.md R186,
R187, R188 (e)): an enabled one sees the level of its source, a disabled one only has its event bits cleared. -/
def cycleClock (inputs : List Channel) (c : Clock) : Clock :=
  match inputs[c.src.idx.toNat]? with
  | some ch =>
    if c.src.en = true then detectCycle c (decide (ch.reading ≠ 0)) else { c with rise := false, fall := false }
  | none => { c with rise := false, fall := false }

end Sys2Proof.Machine
end

