-- ==== Sys2Proof/Certificates/Slice0/Obligations.lean ====
section
/-! DEFINITION. The statements about the model. Each docstring names the rules of spec/ it rests on. -/

open Sys2Proof Sys2Proof.Machine

/-! ### Encodings -/

/-- 30_encoding.md R64 to R66, R71: every instruction is read back from its word, with every operand. -/
def Obligations.DecodeOfEncode : Prop := ∀ i : Instr, decode (encode i) = .ok i

/-- 30_encoding.md R64 to R68: a word that decodes is the word of its instruction, so no two words are one
instruction and no bit of a decoded word is dropped. -/
def Obligations.EncodeOfDecode : Prop := ∀ (r : Raw) (i : Instr), decode r = .ok i → encode i = r

/-- 30_encoding.md R65, R71: words written out from the tables decode to their instructions. -/
def Obligations.WrittenOutWordsDecode : Prop :=
  decode (.cmd 0x01000000) = .ok .nop ∧ decode (.cmd 0x02000106) = .ok (.rd 0x0106) ∧
  decode (.cmd 0x03000401) = .ok (.wr 0x0401) ∧ decode (.cmd 0x05000000) = .ok .step ∧
  decode (.cmd 0x12010000) = .ok (.pct true) ∧ decode (.cmd 0x14000000) = .ok (.dacenc false) ∧
  decode (.cmd 0x80030002) = .ok (.uCond 3 2) ∧ decode (.cmd 0x82010000) = .ok (.uClkdet true) ∧
  decode (.cmd 0x85060000) = .ok (.uHook 6) ∧ decode (.frame 0x9BB8) = .ok (.dacFrame true false 0xBB8)

/-- 30_encoding.md R74, 60_exceptions.md R218: the legal command words are the listed ones, and any other word that
the host issues raises ILLEGAL_CMD with FAULT_INFO = CW (outside HALTED), before any other check. That the command
is the first of a list of inputs is the model's choice (log entry 2); that an illegal command writes its latches CW,
OPA, OPB and OPC too is the model's reading of 10_state.md R18 (log entry 9). -/
def Obligations.IllegalCommandWords : Prop :=
  (∀ w : Word, legalCw w = true ↔
    w = 0x01000000 ∨ w.extractLsb' 16 16 = 0x0200 ∨ w.extractLsb' 16 16 = 0x0300 ∨
    w = 0x04000000 ∨ w = 0x05000000 ∨ w = 0x06000000 ∨ w = 0x10000000 ∨ w = 0x11000000 ∨
    w = 0x12000000 ∨ w = 0x12010000 ∨ w = 0x13000000 ∨ w = 0x14000000 ∨ w = 0x14010000) ∧
  (∀ (s : State) (c : Cmd) (rest : List Input), s.inbox = .cmd c :: rest →
    s.mode ≠ .halted → legalCw c.cw = false →
    step s = .next { s with
      inbox := rest, cw := c.cw, opa := c.opa, opb := c.opb, opc := c.opc, res := 0,
      mode := .halted, faultCode := .illegalCmd, faultInfo := c.cw })

/-! ### The step -/

/-- 20_memory.md R57, 10_state.md R18 and the model's inputs (log entries 2, 4 and 27, the model's choice): a step runs
the instruction that its word decodes to. A legal host command runs with CW, OPA, OPB and OPC latched; an internal
micro-operation that the model runs by itself has its word and OPA latched; a frame by itself changes no latch. -/
def Obligations.StepRunsTheDecodedInstruction : Prop :=
  (∀ (s : State) (c : Cmd) (rest : List Input) (i : Instr), s.inbox = .cmd c :: rest →
    decode (.cmd c.cw) = .ok i → i.isHost = true →
    step s = exec i { s with inbox := rest, cw := c.cw, opa := c.opa, opb := c.opb, opc := c.opc }) ∧
  (∀ (s : State) (w a : Word) (rest : List Input) (i : Instr), s.inbox = .micro w a :: rest →
    decode (.cmd w) = .ok i → i.isHost = false →
    step s = exec i { s with inbox := rest, cw := w, opa := a }) ∧
  (∀ (s : State) (w : Frame) (rest : List Input) (i : Instr), s.inbox = .frame w :: rest →
    decode (.frame w) = .ok i → step s = exec i { s with inbox := rest })

/-! ### Host register access -/

/-- 40_host_interface.md R80: NOP sets RES to 0 and changes nothing else, in every mode and phase; a NOP word with
a nonzero FLAGS or IMM16 is illegal. -/
def Obligations.NopOnlyClearsRes : Prop :=
  encode .nop = .cmd 0x01000000 ∧
  (∀ w : Word, cwOpc w = 0x01 → (cwFlags w ≠ 0 ∨ cwImm w ≠ 0) → legalCw w = false) ∧
  ∀ s : State, exec .nop s = .next { s with res := 0 }

/-- 40_host_interface.md R81, 20_memory.md R53: RD answers the register's word and changes nothing else; an unmapped
address raises BAD_INDEX with FAULT_INFO = CW, and in HALTED answers 0. -/
def Obligations.RdAnswersTheRegister : Prop :=
  ∀ (a : Addr) (s : State),
    encode (.rd a) = .cmd (0x02000000 ||| a.setWidth 32) ∧
    (∀ f : BitVec 8, f ≠ 0 → legalCw (mkCw 0x02 f a) = false) ∧
    (∀ w, s.readAt a = some w → exec (.rd a) s = .next { s with res := w }) ∧
    (s.readAt a = none → s.mode = .halted → exec (.rd a) s = .next { s with res := 0 }) ∧
    (s.readAt a = none → s.mode ≠ .halted → exec (.rd a) s =
      .next { s with res := 0, mode := .halted, faultCode := .badIndex, faultInfo := s.cw })

/-- 40_host_interface.md R82, 10_state.md R43, 60_exceptions.md R219, R220: when WR is turned away, in the order
BAD_INDEX, READ_ONLY, CFG_LOCKED; in HALTED it only clears RES. -/
def Obligations.WrTurnedAway : Prop :=
  ∀ (a : Addr) (s : State),
    (s.mode = .halted → exec (.wr a) s = .next { s with res := 0 }) ∧
    (s.mode ≠ .halted → s.regAt a = none → exec (.wr a) s =
      .next { s with res := 0, mode := .halted, faultCode := .badIndex, faultInfo := s.cw }) ∧
    (∀ r, s.mode ≠ .halted → s.regAt a = some r → regAccess r = .readOnly → exec (.wr a) s =
      .next { s with res := 0, mode := .halted, faultCode := .readOnly, faultInfo := s.cw }) ∧
    (∀ r, s.mode = .run → s.regAt a = some r → regAccess r = .config → exec (.wr a) s =
      .next { s with res := 0, mode := .halted, faultCode := .cfgLocked, faultInfo := s.cw })

/-- 40_host_interface.md R82, R83, 20_memory.md R54, R58: a WR that is allowed stores OPA under the register's mask, so
that the next read answers it; every other register reads as before, and no hidden state, pin or event changes. -/
def Obligations.WrStoresUnderItsMask : Prop :=
  ∀ (a : Addr) (s : State) (r : Reg), s.regAt a = some r →
    (s.mode = .config ∧ regAccess r ≠ .readOnly ∨ s.mode = .run ∧ regAccess r = .desired) →
    ∃ t, exec (.wr a) s = .next t ∧
      t.readAt a = some (s.opa &&& wmask r) ∧
      (∀ a', a' ≠ a → t.readAt a' = s.readAt a') ∧
      t.res = 0 ∧ t.mode = s.mode ∧ t.hook = s.hook ∧ t.phase = s.phase ∧
      t.faultCode = s.faultCode ∧ t.faultInfo = s.faultInfo ∧
      t.cw = s.cw ∧ t.opa = s.opa ∧ t.opb = s.opb ∧ t.opc = s.opc ∧
      t.params = s.params ∧ t.inbox = s.inbox ∧ t.samples = s.samples ∧
      t.free = s.free ∧ t.pins = s.pins ∧ t.trace = s.trace ∧
      (∀ b, (t.bank b).map (·.hist) = (s.bank b).map (·.hist)) ∧
      t.outputs.map (·.committed) = s.outputs.map (·.committed) ∧
      t.outputs.map (·.dout) = s.outputs.map (·.dout)

/-- 20_memory.md R48: Mapped(a), as its formula. -/
def Obligations.MappedAddresses : Prop :=
  ∀ (s : State) (a : Addr), (s.regAt a).isSome = true ↔
    (a.toNat ≤ 7 ∨
     (0x100 ≤ a.toNat ∧ a.toNat < 0x200 ∧ a.toNat % 8 ≤ 6 ∧ (a.toNat - 0x100) / 8 < s.inputs.length) ∨
     (0x200 ≤ a.toNat ∧ a.toNat < 0x300 ∧ a.toNat % 8 ≤ 6 ∧ (a.toNat - 0x200) / 8 < s.pots.length) ∨
     (0x300 ≤ a.toNat ∧ a.toNat < 0x400 ∧ a.toNat % 8 ≤ 6 ∧ (a.toNat - 0x300) / 8 < s.switches.length) ∨
     (0x400 ≤ a.toNat ∧ a.toNat < 0x440 ∧ (a.toNat - 0x400) / 2 < s.outputs.length))

/-- 30_encoding.md R79, 20_memory.md R47: every register of the map stands at its address, and only there, with its
access; a machine has the channel and output registers below its counts; no register stands above 0x043F. -/
def Obligations.RegisterAddresses : Prop :=
  (regOfAddr 0x0000 = some .status ∧ regOfAddr 0x0001 = some .fault ∧ regOfAddr 0x0002 = some .faultInfo ∧
    regOfAddr 0x0003 = some .ctrl ∧ regOfAddr 0x0004 = some (.clkSrc false) ∧
    regOfAddr 0x0005 = some (.clkSrc true) ∧ regOfAddr 0x0006 = some .events ∧ regOfAddr 0x0007 = some .params) ∧
  (bankCode .inputs = 1 ∧ bankCode .pots = 2 ∧ bankCode .switches = 3 ∧
    chanRegOffset .cctl = 0 ∧ chanRegOffset .r1 = 1 ∧ chanRegOffset .r2 = 2 ∧ chanRegOffset .cutoff = 3 ∧
    chanRegOffset .vmax = 4 ∧ chanRegOffset .tol = 5 ∧ chanRegOffset .reading = 6) ∧
  (∀ (b : Bank) (c : Nat) (r : ChanReg), c < 32 →
    regOfAddr (0x100 * bankCode b + 8 * c + chanRegOffset r) = some (.chan b c r)) ∧
  (∀ o, o < 32 → regOfAddr (0x0400 + 2 * o) = some (.out o .octl) ∧
    regOfAddr (0x0401 + 2 * o) = some (.out o .desired)) ∧
  (∀ (n : Nat) (r : Reg), regOfAddr n = some r → regAddr r = n ∧ n ≤ 0x043F) ∧
  (regAccess .status = .readOnly ∧ regAccess .fault = .readOnly ∧ regAccess .faultInfo = .readOnly ∧
    regAccess .ctrl = .config ∧ (∀ second, regAccess (.clkSrc second) = .config) ∧ regAccess .events = .readOnly ∧
    regAccess .params = .readOnly ∧
    (∀ b c, regAccess (.chan b c .reading) = .readOnly ∧ ∀ r, r ≠ .reading → regAccess (.chan b c r) = .config) ∧
    (∀ o, regAccess (.out o .octl) = .config ∧ regAccess (.out o .desired) = .desired)) ∧
  (∀ s : State, (∀ b c r, s.hasReg (.chan b c r) = true ↔ c < (s.bank b).length) ∧
    (∀ o r, s.hasReg (.out o r) = true ↔ o < s.outputs.length) ∧
    ∀ n, n < 8 → ∀ r, regOfAddr n = some r → s.hasReg r = true)

/-- 10_state.md R20 to R24, R26 to R34, R39: the word that RD answers for every register, field by field: STATUS,
FAULT, FAULT_INFO, CTRL, CLK1_SRC, CLK2_SRC, EVENTS and PARAMS, the seven registers of a channel block and the two of
an output block. -/
def Obligations.StatusAndEventWords : Prop :=
  ∀ s : State, sized s →
    (∃ st ft ev pa : Word,
      s.readAt 0x0000 = some st ∧ s.readAt 0x0001 = some ft ∧ s.readAt 0x0006 = some ev ∧
      s.readAt 0x0007 = some pa ∧ s.readAt 0x0002 = some s.faultInfo ∧
      st.toNat = (match s.mode with | .config => 0 | .run => 1 | .halted => 2) +
        16 * (match s.hook with
          | .none => 0 | .start => 1 | .rise1 => 2 | .fall1 => 3 | .rise2 => 4 | .fall2 => 5 | .step => 6) +
        256 * (match s.phase with
          | .idle => 0 | .startHook => 1 | .condIn => 2 | .condPot => 3 | .condSw => 4
          | .clk1 => 5 | .clk2 => 6 | .stepHook => 7 | .commit => 8 | .debugDelay => 9) ∧
      ft.toNat = (match s.faultCode with
        | .none => 0 | .tooManyAout => 1 | .badIndex => 2 | .divZero => 3 | .illegalCmd => 4
        | .badPhase => 5 | .cfgLocked => 6 | .readOnly => 7 | .range => 8) ∧
      ev.toNat = s.clk1.rise.toNat + 2 * s.clk1.fall.toNat + 4 * s.clk2.rise.toNat + 8 * s.clk2.fall.toNat +
        256 * s.clk1.level.toNat + 512 * s.clk2.level.toNat ∧
      pa.toNat = s.inputs.length + 256 * s.pots.length + 65536 * s.switches.length +
        16777216 * s.outputs.length) ∧
    (∃ ct c1 c2 : Word,
      s.readAt 0x0003 = some ct ∧ s.readAt 0x0004 = some c1 ∧ s.readAt 0x0005 = some c2 ∧
      ct.toNat = Bool.toNat s.ctrl.debug + 256 * s.ctrl.heStart.toNat + 512 * s.ctrl.heRise1.toNat +
        1024 * s.ctrl.heFall1.toNat + 2048 * s.ctrl.heRise2.toNat + 4096 * s.ctrl.heFall2.toNat +
        8192 * s.ctrl.heStep.toNat ∧
      c1.toNat = s.clk1.src.idx.toNat + 2147483648 * s.clk1.src.en.toNat ∧
      c2.toNat = s.clk2.src.idx.toNat + 2147483648 * s.clk2.src.en.toNat) ∧
    (∀ (b : Bank) (c : Nat) (ch : Channel), (s.bank b)[c]? = some ch →
      let base := (match b with | .inputs => 0x0100 | .pots => 0x0200 | .switches => 0x0300) + 8 * c
      (∃ cc : Word, s.readAt (BitVec.ofNat 16 base) = some cc ∧
        cc.toNat = ch.digital.toNat + 2 * ch.smooth.toNat + 4 * ch.rev.toNat) ∧
      s.readAt (BitVec.ofNat 16 (base + 1)) = some ch.r1 ∧ s.readAt (BitVec.ofNat 16 (base + 2)) = some ch.r2 ∧
      s.readAt (BitVec.ofNat 16 (base + 3)) = some ch.cutoff ∧ s.readAt (BitVec.ofNat 16 (base + 4)) = some ch.vmax ∧
      s.readAt (BitVec.ofNat 16 (base + 5)) = some ch.tol ∧ s.readAt (BitVec.ofNat 16 (base + 6)) = some ch.reading) ∧
    (∀ (o : Nat) (out : Output), s.outputs[o]? = some out →
      (∃ oc : Word, s.readAt (BitVec.ofNat 16 (0x0400 + 2 * o)) = some oc ∧ oc.toNat = out.analog.toNat) ∧
      s.readAt (BitVec.ofNat 16 (0x0401 + 2 * o)) = some out.desired)

/-! ### Signal Conditioner -/

/-- 41_signal_conditioner.md R120, R121: CONV, with its faults in order. -/
def Obligations.ConvConverts : Prop :=
  encode .conv = .cmd 0x10000000 ∧
  ∀ s : State, s.mode ≠ .halted →
    exec .conv s = .next (
      let smp := s.opa.toNat
      let r1 := s.opb.toNat
      let r2 := s.opc.toNat
      let vref := s.params.vrefMvPred + 1
      let ares := s.params.adcResPred + 1
      let x := if r1 = 0 ∧ r2 = 0 then smp * vref / ares else smp * vref * (r1 + r2) / (ares * r2)
      if r1 ≠ 0 ∧ r2 = 0 then
        { s with res := 0, mode := .halted, faultCode := .divZero, faultInfo := s.cw }
      else if 2 ^ (s.params.adcBitsPred.val + 1) - 1 < smp ∨ 2147483647 < x then
        { s with res := 0, mode := .halted, faultCode := .range, faultInfo := s.cw }
      else { s with res := BitVec.ofNat 32 x })

/-- 41_signal_conditioner.md R122: properties of conv. -/
def Obligations.ConvProperties : Prop :=
  ∀ (p : Params) (smp smp' r1 r2 : Nat),
    (0 < r2 → conv p smp 0 r2 = conv p smp 0 0) ∧
    (smp ≤ smp' → convExact p smp r1 r2 ≤ convExact p smp' r1 r2) ∧
    (0 < r2 → convExact p smp 0 0 ≤ convExact p smp r1 r2)

/-- 41_signal_conditioner.md R125: the smoothed reading after n readings, from any history for n ≥ 8, and from the
reset history for n < 8; a constant input for 8 cycles gives itself. -/
def Obligations.SmoothingOverReadings : Prop :=
  (∀ (h : Hist) (xs : List Word), 8 ≤ xs.length →
    s32 (histMean (xs.foldl histPush h)) = ((xs.drop (xs.length - 8)).map s32).sum / 8) ∧
  (∀ xs : List Word, xs.length < 8 →
    s32 (histMean (xs.foldl histPush Hist.reset)) = (xs.map s32).sum / 8) ∧
  (∀ (h : Hist) (x : Word), histMean ((List.replicate 8 x).foldl histPush h) = x)

/-- 41_signal_conditioner.md R124: U_SMOOTH shifts OPA into the history of its channel and changes nothing else.
That it is so in every mode is the model's choice (log entry 27). -/
def Obligations.USmoothShiftsTheHistory : Prop :=
  ∀ (s : State) (k : BitVec 2) (c : BitVec 16) (b : Bank) (ch : Channel),
    bankOfCode k = some b → (s.bank b)[c.toNat]? = some ch →
    exec (.uSmooth k c) s = .next (s.setBank b ((s.bank b).set c.toNat { ch with
      hist := ⟨ch.hist.h1, ch.hist.h2, ch.hist.h3, ch.hist.h4, ch.hist.h5, ch.hist.h6, ch.hist.h7, s.opa⟩ }))

/-- 41_signal_conditioner.md R126: THRESH. -/
def Obligations.ThreshCompares : Prop :=
  encode .thresh = .cmd 0x11000000 ∧
  ∀ s : State, s.mode ≠ .halted →
    exec .thresh s = .next { s with res := if s.opa.toInt > s.opb.toInt then 1 else 0 }

/-- 41_signal_conditioner.md R127, R128: PCT and PCT.REV. -/
def Obligations.PctComputes : Prop :=
  encode (.pct false) = .cmd 0x12000000 ∧ encode (.pct true) = .cmd 0x12010000 ∧
  ∀ (s : State) (rev : Bool), s.mode ≠ .halted →
    exec (.pct rev) s = .next (
      let vmax : Int := s.opb.toNat
      let tol : Int := s.opc.toNat
      let p : Int := max 0 (min 100 (s.opa.toInt * 100 / vmax))
      let q : Int := p - p % tol
      if vmax = 0 ∨ tol = 0 then
        { s with res := 0, mode := .halted, faultCode := .divZero, faultInfo := s.cw }
      else { s with res := BitVec.ofInt 32 (if rev then 100 - q else q) })

/-- 41_signal_conditioner.md R129: the corner cases of pct. -/
def Obligations.PctCorners : Prop :=
  ∀ (mv : Int) (vmax tol : Nat), 0 < vmax → 0 < tol →
    ((vmax : Int) ≤ mv → pctExact mv vmax tol false = 100 - 100 % (tol : Int) ∧
      (tol ∣ 100 → pctExact mv vmax tol false = 100) ∧
      (tol = 3 → pctExact mv vmax tol false = 99)) ∧
    (mv ≤ 0 → pctExact mv vmax tol false = 0 ∧ pctExact mv vmax tol true = 100) ∧
    (tol = 1 → pctExact mv vmax tol false = max 0 (min 100 (mv * 100 / (vmax : Int)))) ∧
    (100 < tol → pctExact mv vmax tol false = 0 ∧ pctExact mv vmax tol true = 100) ∧
    ((tol : Int) ∣ pctExact mv vmax tol true ↔ tol ∣ 100) ∧
    (∀ rev, 0 ≤ pctExact mv vmax tol rev ∧ pctExact mv vmax tol rev ≤ 100)

/-- 10_state.md R37: a draw is in [0, ADC_MAX]. That the next listed sample is the draw, and is
taken off the list, is the model's choice (log entry 3). -/
def Obligations.SamplesAreInRange : Prop :=
  ∀ s : State, s.sample ≤ 2 ^ (s.params.adcBitsPred.val + 1) - 1 ∧
    (∀ x rest, s.samples = x :: rest → x.toNat ≤ 2 ^ (s.params.adcBitsPred.val + 1) - 1 →
      s.sample = x.toNat ∧ s.afterSample = { s with samples := rest })

/-- 41_signal_conditioner.md R130, R131: U_COND draws one sample, and where conv does not raise it publishes the
channel's value and (with SMOOTH = 1) shifts its history; nothing else changes.
That it is so in every mode is the model's choice (log entry 27). -/
def Obligations.UCondConditionsItsChannel : Prop :=
  ∀ (s : State) (k : BitVec 2) (c : BitVec 16) (b : Bank) (ch : Channel) (mv : Word),
    bankOfCode k = some b → (s.bank b)[c.toNat]? = some ch →
    conv s.params s.sample ch.r1.toNat ch.r2.toNat = .ok mv →
    (b = .pots → ch.vmax ≠ 0 ∧ ch.tol ≠ 0) →
    exec (.uCond k c) s = .next (
      let h : Hist := if ch.smooth then histPush ch.hist mv else ch.hist
      let v : Word := if ch.smooth then histMean h else mv
      let reading : Word :=
        match b with
        | .inputs => if ch.digital then (if v.toInt > ch.cutoff.toInt then 1 else 0) else v
        | .pots => BitVec.ofInt 32 (pctExact v.toInt ch.vmax.toNat ch.tol.toNat ch.rev)
        | .switches => if v.toInt > ch.cutoff.toInt then 1 else 0
      s.afterSample.setBank b ((s.bank b).set c.toNat { ch with hist := h, reading := reading }))

/-- 41_signal_conditioner.md R131, 60_exceptions.md R216, R217: where the conversion does not fit 32 bits U_COND
raises RANGE with FAULT_INFO the address of READING, and neither HIST nor READING of the channel changes.
That it is so in every mode is the model's choice (log entry 27). -/
def Obligations.UCondRaisesRange : Prop :=
  ∀ (s : State) (k : BitVec 2) (c : BitVec 16) (b : Bank) (ch : Channel),
    bankOfCode k = some b → (s.bank b)[c.toNat]? = some ch →
    (ch.r1.toNat = 0 ∨ ch.r2.toNat ≠ 0) →
    2147483647 < convExact s.params s.sample ch.r1.toNat ch.r2.toNat →
    exec (.uCond k c) s = .next { s.afterSample with
      res := 0, mode := .halted, faultCode := .range,
      faultInfo := BitVec.ofNat 32 (0x100 * k.toNat + 8 * c.toNat + 6) }

/-- 41_signal_conditioner.md R132, R133, 45_step_orchestrator.md R186: a conditioning phase draws one sample for
each channel in ascending order and conditions each channel from its own sample, configuration and history alone;
where none raises, nothing but the bank and the draws to come changes. That the draws are taken from the list
State.samples, each cut to its low ADC_BITS bits, is the model's choice (log entry 3). -/
def Obligations.ConditioningPhaseMapsTheBank : Prop :=
  ∀ (s : State) (b : Bank) (l : List Channel), s.mode ≠ .halted →
    (s.bank b).length ≤ s.samples.length →
    List.zipWith (fun x ch => conditioned s.params b (x.toNat % 2 ^ (s.params.adcBitsPred.val + 1)) ch)
      s.samples (s.bank b) = l.map some →
    condBank b s = { s with samples := s.samples.drop (s.bank b).length }.setBank b l

/-! ### Clock Edge Detectors -/

/-- 42_clock_edge_detector.md R137 to R140: U_CLKDET. A disabled detector does nothing; an enabled one reads the
level of its source and takes the edge, setting its level, its event bit and, where enabled, the hook. It touches
nothing of the other detector.
That it is so in every mode is the model's choice (log entry 27). -/
def Obligations.UClkdetTakesTheEdges : Prop :=
  encode (.uClkdet false) = .cmd 0x82000000 ∧ encode (.uClkdet true) = .cmd 0x82010000 ∧
  (∀ s : State, s.clk1.src.en = false → exec (.uClkdet false) s = .next s) ∧
  (∀ s : State, s.clk2.src.en = false → exec (.uClkdet true) s = .next s) ∧
  (∀ (s : State) (ch : Channel), s.clk1.src.en = true → s.inputs[s.clk1.src.idx.toNat]? = some ch →
    exec (.uClkdet false) s = .next (
      if s.clk1.level = false ∧ ch.reading ≠ 0 then
        { s with clk1 := { s.clk1 with level := true, rise := true },
                 hook := if s.ctrl.heRise1 then .rise1 else s.hook }
      else if s.clk1.level = true ∧ ch.reading = 0 then
        { s with clk1 := { s.clk1 with level := false, fall := true },
                 hook := if s.ctrl.heFall1 then .fall1 else s.hook }
      else s)) ∧
  (∀ (s : State) (ch : Channel), s.clk2.src.en = true → s.inputs[s.clk2.src.idx.toNat]? = some ch →
    exec (.uClkdet true) s = .next (
      if s.clk2.level = false ∧ ch.reading ≠ 0 then
        { s with clk2 := { s.clk2 with level := true, rise := true },
                 hook := if s.ctrl.heRise2 then .rise2 else s.hook }
      else if s.clk2.level = true ∧ ch.reading = 0 then
        { s with clk2 := { s.clk2 with level := false, fall := true },
                 hook := if s.ctrl.heFall2 then .fall2 else s.hook }
      else s))

/-- 42_clock_edge_detector.md R141: over the levels of successive cycles from reset, (a) an event is a transition,
(b) rises are counted by low-to-high transitions and alternate with falls, starting with a rise, (c) at most one
event in a cycle, (d) the sequence [low, low, high, high, low]. -/
def Obligations.EdgesAreTransitions : Prop :=
  ∀ c : Clock, c.level = false →
    (∀ ls : List Bool,
      edgeEvents c ls = List.zipWith (fun old lv => (!old && lv, old && !lv)) (false :: ls) ls ∧
      (∀ n, ((edgeEvents c ls).take n).countP (·.2) ≤ ((edgeEvents c ls).take n).countP (·.1) ∧
        ((edgeEvents c ls).take n).countP (·.1) ≤ ((edgeEvents c ls).take n).countP (·.2) + 1) ∧
      (∀ e ∈ edgeEvents c ls, ¬(e.1 = true ∧ e.2 = true))) ∧
    edgeEvents c [false, false, true, true, false] =
      [(false, false), (false, false), (true, false), (false, false), (false, true)]

/-! ### DAC Frame Encoder and serializer -/

/-- 43_dac_frame_encoder.md R153: the payload and the gain bit of every code in [0, 4095], and no value outside the
range is encoded. -/
def Obligations.DacPayloadAndGain : Prop :=
  ∀ (v : Int) (sel : Bool),
    (0 ≤ v → v ≤ 4095 →
      (enc v sel).getLsbD 13 = decide (v ≤ 2048) ∧
      (2048 < v → ((enc v sel).extractLsb' 0 12).toNat = v.toNat) ∧
      (v < 2048 → ((enc v sel).extractLsb' 0 12).toNat = 2 * v.toNat) ∧
      (v = 2048 → (enc v sel).extractLsb' 0 12 = 0)) ∧
    enc v sel = enc (max 0 (min 4095 v)) sel

/-- 43_dac_frame_encoder.md R150, R151, 30_encoding.md R71: DACENC answers the frame of its code, zero-extended, and
sends nothing. -/
def Obligations.DacencAnswersTheFrame : Prop :=
  encode (.dacenc false) = .cmd 0x14000000 ∧ encode (.dacenc true) = .cmd 0x14010000 ∧
  ∀ (s : State) (sel : Bool), s.mode ≠ .halted →
    exec (.dacenc sel) s = .next (
      let v := max 0 (min 4095 s.opa.toInt)
      let payload := if v > 2048 then v else 2 * v
      let gaN : Int := if v > 2048 then 0 else 1
      let a : Int := if sel then 32768 else 0
      { s with res := BitVec.ofInt 32 (a + 8192 * gaN + 4096 + payload % 4096) })

/-- 30_encoding.md R73: which words are frames of some code. -/
def Obligations.EmittedFrames : Prop :=
  ∀ w : Frame, (∃ (v : Int) (sel : Bool), enc v sel = w) ↔
    (w.getLsbD 14 = false ∧ w.getLsbD 12 = true ∧
      ¬(w.getLsbD 13 = false ∧ (w.extractLsb' 0 12).toNat ≤ 2048) ∧
      ¬(w.getLsbD 13 = true ∧ (w.extractLsb' 0 12).toNat % 2 = 1))

/-- 43_dac_frame_encoder.md R158: on an idle bus a transfer of W to chip k gives exactly 16 rising edges of SCK, at
the p-th of which the selected chip samples W[15 − p], selects no other chip, pulses the strobe after CS_n has
risen if it is wired, and leaves the bus idle; whatever SDI is in between. -/
def Obligations.TransferWaveform : Prop :=
  ∀ (p : Params) (k : Chip) (w : Frame) (n : Nat) (pins : Pins), busIdle pins →
    sampledBits k pins (transferWave p k w n) = (List.range 16).map (fun i => w.getLsbD (15 - i)) ∧
    risingEdges pins (transferWave p k w n) = 16 ∧
    busIdle (drivePins pins (transferWave p k w n)) ∧
    (∀ k', k' ≠ k → sampledBits k' pins (transferWave p k w n) = []) ∧
    (∀ k' b, .cs k' b ∈ transferWave p k w n → k' = k) ∧
    (∃ pre, transferWave p k w n =
      pre ++ [.cs k true] ++ (if ldacWired p k then [.ldac k false, .ldac k true] else []) ∧
      (∀ k' b, .ldac k' b ∉ pre))

/-- 43_dac_frame_encoder.md R157, 10_state.md R41: U_DACXFER appends one DacFrame event with the frame OPA[15:0] and
drives the bus; on an idle bus it leaves the bus idle with SDI at any value; nothing else of the block changes.
(`free` is the model's counter of free values.)
That it is so in every mode is the model's choice (log entry 27). -/
def Obligations.UDacxferSendsOneFrame : Prop :=
  ∀ (s : State) (chip : Bool), busIdle s.pins →
    ∃ sdi : Bool, exec (.uDacxfer chip) s = .next { s with
      pins := { s.pins with sdi := sdi },
      free := s.free + 16,
      trace := s.trace ++ [.dacFrame (if chip then .chip1 else .chip0) (s.opa.extractLsb' 0 16)] }

/-- 30_encoding.md R70, 43_dac_frame_encoder.md R158 (step 2), 10_state.md R41 and log entry 6 (the model's choice of
what a frame alone does): a frame on the wire drives SDI and SCK alone: SCK ends low, SDI at any value, no event is
appended and nothing else changes. From SCK low it makes 16 rising edges, at which the one chip whose CS_n is low
samples W[15], ..., W[0], and another chip nothing.
That it is so in every mode is the model's choice (log entry 27). -/
def Obligations.DacFrameReachesTheSelectedChip : Prop :=
  ∀ (s : State) (sel gaN : Bool) (code : BitVec 12),
    let w := mkFrame sel gaN code
    exec (.dacFrame sel gaN code) s = .next { s with
      pins := drivePins s.pins (frameWave w s.free), free := s.free + 16 } ∧
    (∃ sdi : Bool, drivePins s.pins (frameWave w s.free) = { s.pins with sck := false, sdi := sdi }) ∧
    (s.pins.sck = false → risingEdges s.pins (frameWave w s.free) = 16 ∧
      (s.pins.csN0 = false → s.pins.csN1 = true →
        sampledBits .chip0 s.pins (frameWave w s.free) = (List.range 16).map (fun i => w.getLsbD (15 - i))) ∧
      (s.pins.csN0 = true → s.pins.csN1 = false →
        sampledBits .chip1 s.pins (frameWave w s.free) = (List.range 16).map (fun i => w.getLsbD (15 - i))) ∧
      (s.pins.csN0 = true → sampledBits .chip0 s.pins (frameWave w s.free) = []) ∧
      (s.pins.csN1 = true → sampledBits .chip1 s.pins (frameWave w s.free) = []))

/-- 43_dac_frame_encoder.md R154: with at most 4 analog outputs, each has rank the number of analog outputs below it,
at most 3, and is sent to chip rank / 2, channel B exactly when the rank is odd; no two share a channel. -/
def Obligations.AnalogOutputsHaveDistinctChannels : Prop :=
  ∀ (s : State) (o o' : Nat) (out out' : Output), analogCount s ≤ 4 →
    s.outputs[o]? = some out → s.outputs[o']? = some out' → out.analog = true → out'.analog = true → o < o' →
    rank s o = (s.outputs.take o).countP (·.analog) ∧ rank s o < rank s o' ∧ rank s o' ≤ 3 ∧
    dacTarget (rank s o) =
      some (if rank s o / 2 = 0 then .chip0 else .chip1, decide (rank s o % 2 = 1)) ∧
    dacTarget (rank s o') =
      some (if rank s o' / 2 = 0 then .chip0 else .chip1, decide (rank s o' % 2 = 1)) ∧
    dacTarget (rank s o) ≠ dacTarget (rank s o')

/-! ### Output Change Filter -/

/-- 44_output_change_filter.md R172, R173, R174: U_COMMIT of a digital output, and of an output whose DESIRED is
already committed.
That it is so in every mode is the model's choice (log entry 27). -/
def Obligations.UCommitOfADigitalOutput : Prop :=
  ∀ (s : State) (o : BitVec 16) (out : Output), s.outputs[o.toNat]? = some out → out.analog = false →
    (out.committed = some out.desired → exec (.uCommit o) s = .next s) ∧
    (out.committed ≠ some out.desired → exec (.uCommit o) s = .next { s with
      outputs := s.outputs.set o.toNat
        { out with dout := decide (out.desired ≠ 0), committed := some out.desired },
      trace := s.trace ++ [.digitalWrite o.toNat (decide (out.desired ≠ 0))] })

/-- 44_output_change_filter.md R173, R174, 43_dac_frame_encoder.md R154: U_COMMIT of an analog output with fewer than 4
analog outputs below it, on an idle bus.
That it is so in every mode is the model's choice (log entry 27). -/
def Obligations.UCommitOfAnAnalogOutput : Prop :=
  ∀ (s : State) (o : BitVec 16) (out : Output) (k : Nat), s.outputs[o.toNat]? = some out → out.analog = true →
    k = (s.outputs.take o.toNat).countP (·.analog) → k ≤ 3 → busIdle s.pins →
    (out.committed = some out.desired → exec (.uCommit o) s = .next s) ∧
    (out.committed ≠ some out.desired → ∃ sdi : Bool, exec (.uCommit o) s = .next { s with
      outputs := s.outputs.set o.toNat { out with committed := some out.desired },
      pins := { s.pins with sdi := sdi },
      free := s.free + 16,
      trace := s.trace ++ [.dacFrame (if k / 2 = 0 then .chip0 else .chip1)
        (enc out.desired.toInt (decide (k % 2 = 1)))] })

/-- 44_output_change_filter.md R176, R177 (a), (b), (c): a COMMIT phase appends exactly the owed writes in ascending
output order, leaves COMMITTED = DESIRED everywhere and DESIRED and ANALOG as they are, changes nothing but the
outputs and the bus, and a second one with no DESIRED written in between issues no write. -/
def Obligations.CommitPhaseWritesExactlyTheChanges : Prop :=
  ∀ s : State, analogCount s ≤ 4 → busIdle s.pins →
    (commitAll s).trace = s.trace ++ owedWrites s ∧
    (∀ out ∈ (commitAll s).outputs, out.committed = some out.desired) ∧
    (commitAll s).outputs.map (fun x => (x.analog, x.desired)) =
      s.outputs.map (fun x => (x.analog, x.desired)) ∧
    busIdle (commitAll s).pins ∧
    commitAll s = { s with
      outputs := (commitAll s).outputs, pins := (commitAll s).pins,
      free := (commitAll s).free, trace := (commitAll s).trace } ∧
    commitAll (commitAll s) = commitAll s

/-! ### Step Orchestrator -/

/-- 45_step_orchestrator.md R182: in CONFIG, START enters RUN exactly when the configuration is one that passes every
check, stops for the START hook if it is enabled, and changes nothing else. -/
def Obligations.StartEntersRun : Prop :=
  encode .start = .cmd 0x04000000 ∧
  ∀ s : State, s.mode = .config →
    (configOk s → exec .start s = .next { s with
      mode := .run, res := 0,
      phase := if s.ctrl.heStart then .startHook else .idle,
      hook := if s.ctrl.heStart then .start else s.hook }) ∧
    (¬ configOk s → ∃ code info, exec .start s = .next { s with
      mode := .halted, res := 0, faultCode := code, faultInfo := info } ∧
      (code = .tooManyAout ∨ code = .badIndex ∨ code = .divZero))

/-- 45_step_orchestrator.md R182, 43_dac_frame_encoder.md R155, 60_exceptions.md R223: START's checks in their order, with
their information words. -/
def Obligations.StartChecksInOrder : Prop :=
  ∀ s : State, s.mode = .config →
    (4 < s.outputs.countP (·.analog) → exec .start s = .next { s with
      mode := .halted, res := 0, faultCode := .tooManyAout,
      faultInfo := BitVec.ofNat 32 (s.outputs.countP (·.analog)) }) ∧
    (s.outputs.countP (·.analog) ≤ 4 → ¬ clockSrcOk s s.clk1 → exec .start s = .next { s with
      mode := .halted, res := 0, faultCode := .badIndex, faultInfo := 0x0004 }) ∧
    (s.outputs.countP (·.analog) ≤ 4 → clockSrcOk s s.clk1 → ¬ clockSrcOk s s.clk2 → exec .start s = .next { s with
      mode := .halted, res := 0, faultCode := .badIndex, faultInfo := 0x0005 }) ∧
    (∀ (b : Bank) (c : Nat) (ch : Channel),
      s.outputs.countP (·.analog) ≤ 4 → clockSrcOk s s.clk1 → clockSrcOk s s.clk2 →
      (s.bank b)[c]? = some ch → ¬ dividerOk ch →
      (∀ b' c' ch', (s.bank b')[c']? = some ch' →
        bankCode b' < bankCode b ∨ b' = b ∧ c' < c → dividerOk ch') →
      exec .start s = .next { s with
        mode := .halted, res := 0, faultCode := .divZero,
        faultInfo := BitVec.ofNat 32 (0x100 * bankCode b + 8 * c + 2) }) ∧
    (∀ (c : Nat) (ch : Channel),
      s.outputs.countP (·.analog) ≤ 4 → clockSrcOk s s.clk1 → clockSrcOk s s.clk2 →
      (∀ b, ∀ ch' ∈ s.bank b, dividerOk ch') →
      s.pots[c]? = some ch → (ch.vmax.toNat = 0 ∨ ch.tol.toNat = 0) →
      (∀ c' ch', s.pots[c']? = some ch' → c' < c → ch'.vmax.toNat ≠ 0 ∧ ch'.tol.toNat ≠ 0) →
      exec .start s = .next { s with
        mode := .halted, res := 0, faultCode := .divZero,
        faultInfo := BitVec.ofNat 32 (0x200 + 8 * c + (if ch.vmax.toNat = 0 then 4 else 5)) })

/-- 45_step_orchestrator.md R183, R185, R186, R187, R188, 41_signal_conditioner.md R131: a STEP of a validated
configuration, no conversion of whose draws leaves 32 bits, completes with RES = 0. Every channel of every bank is
conditioned from its own draw of this cycle, in ascending order of banks and channels. CLK1 then takes the level of
its freshly published source; an event of it whose hook is enabled stops the cycle there, before CLK2. Else CLK2
takes its level likewise and may stop the cycle. Else the cycle stops at the STEP hook exactly if it is enabled, and
ends at IDLE exactly if it is not. Only a cycle that ends commits: every output then is committed; one that stops at
a hook has changed no output, pin or event. The configuration and DESIRED stay. (`drawAt` and the list of samples
are the model's draws, log entry 3.) -/
def Obligations.StepRunsACycle : Prop :=
  encode .step = .cmd 0x05000000 ∧
  ∀ s : State, s.mode = .run → s.phase = .idle → s.hook = .none → configOk s → busIdle s.pins →
    (∀ b c ch, (s.bank b)[c]? = some ch →
      convExact s.params (drawAt s (drawIndex s b c)) ch.r1.toNat ch.r2.toNat ≤ 2147483647) →
    ∃ t, exec .step s = .next t ∧ t.mode = .run ∧ t.res = 0 ∧
      (∀ b c ch, (s.bank b)[c]? = some ch →
        ∃ ch', conditioned s.params b (drawAt s (drawIndex s b c)) ch = some ch' ∧ (t.bank b)[c]? = some ch') ∧
      t.samples = s.samples.drop (s.inputs.length + s.pots.length + s.switches.length) ∧
      t.clk1 = cycleClock t.inputs s.clk1 ∧
      (if t.clk1.rise = true ∧ s.ctrl.heRise1 = true then
        t.phase = .clk1 ∧ t.hook = .rise1 ∧ t.clk2 = { s.clk2 with rise := false, fall := false }
      else if t.clk1.fall = true ∧ s.ctrl.heFall1 = true then
        t.phase = .clk1 ∧ t.hook = .fall1 ∧ t.clk2 = { s.clk2 with rise := false, fall := false }
      else t.clk2 = cycleClock t.inputs s.clk2 ∧
        (if t.clk2.rise = true ∧ s.ctrl.heRise2 = true then t.phase = .clk2 ∧ t.hook = .rise2
        else if t.clk2.fall = true ∧ s.ctrl.heFall2 = true then t.phase = .clk2 ∧ t.hook = .fall2
        else if s.ctrl.heStep = true then t.phase = .stepHook ∧ t.hook = .step
        else t.phase = .idle ∧ t.hook = .none)) ∧
      (t.hook = .none → t.trace = s.trace ++ owedWrites s ∧ busIdle t.pins ∧
        ∀ out ∈ t.outputs, out.committed = some out.desired) ∧
      (t.hook ≠ .none → t.trace = s.trace ∧ t.outputs = s.outputs ∧ t.pins = s.pins) ∧
      t.configView = s.configView ∧
      t.outputs.map (·.desired) = s.outputs.map (·.desired) ∧
      t.faultCode = s.faultCode ∧ t.faultInfo = s.faultInfo ∧ t.inbox = s.inbox ∧
      t.cw = s.cw ∧ t.opa = s.opa ∧ t.opb = s.opb ∧ t.opc = s.opc

/-- 60_exceptions.md R221, R216, R217: a STEP of a validated configuration raises where the conversion of a channel's
draw leaves 32 bits. Then some such channel c of bank b has raised: RANGE with FAULT_INFO the address of its READING,
PHASE the conditioning phase of b, no hook requested; the channels before it hold this cycle's values, it and the
later ones hold what they held, the event bits are cleared, and the levels, the outputs, the pins, the trace and the
configuration are as before. (`drawAt` is the model's draws, log entry 3.) -/
def Obligations.StepThatRaises : Prop :=
  (∀ s : State, s.mode = .run → s.phase = .idle → s.hook = .none → configOk s →
    (∃ b c ch, (s.bank b)[c]? = some ch ∧
      2147483647 < convExact s.params (drawAt s (drawIndex s b c)) ch.r1.toNat ch.r2.toNat) →
    ∃ t, exec .step s = .next t ∧ t.mode = .halted) ∧
  (∀ s t : State, s.mode = .run → s.phase = .idle → s.hook = .none → configOk s →
    exec .step s = .next t → t.mode = .halted →
    ∃ b c ch, (s.bank b)[c]? = some ch ∧
      2147483647 < convExact s.params (drawAt s (drawIndex s b c)) ch.r1.toNat ch.r2.toNat ∧
      t.faultCode = .range ∧ t.faultInfo = BitVec.ofNat 32 (0x100 * bankCode b + 8 * c + 6) ∧
      t.phase = (match b with | .inputs => .condIn | .pots => .condPot | .switches => .condSw) ∧
      t.res = 0 ∧ t.hook = .none ∧
      (∀ b' c' ch', (s.bank b')[c']? = some ch' →
        if bankCode b' < bankCode b ∨ b' = b ∧ c' < c then
          ∃ ch'', conditioned s.params b' (drawAt s (drawIndex s b' c')) ch' = some ch'' ∧
            (t.bank b')[c']? = some ch''
        else (t.bank b')[c']? = some ch') ∧
      t.clk1 = { s.clk1 with rise := false, fall := false } ∧
      t.clk2 = { s.clk2 with rise := false, fall := false } ∧
      t.outputs = s.outputs ∧ t.pins = s.pins ∧ t.trace = s.trace ∧ t.configView = s.configView)

/-- 45_step_orchestrator.md R184, R186, R188 (c), 44_output_change_filter.md R179: ACK of the START hook goes to IDLE;
ACK of the STEP hook commits every output and ends the cycle, and nothing that was conditioned or detected
changes. -/
def Obligations.AckOfTheStartAndStepHooks : Prop :=
  encode .ack = .cmd 0x06000000 ∧
  (∀ s : State, s.mode = .run → s.hook = .start →
    exec .ack s = .next { s with res := 0, hook := .none, phase := .idle }) ∧
  (∀ s : State, s.mode = .run → s.hook = .step → analogCount s ≤ 4 → busIdle s.pins →
    ∃ t, exec .ack s = .next t ∧
      t = { s with res := 0, hook := .none, phase := .idle,
                   outputs := t.outputs, pins := t.pins, free := t.free, trace := t.trace } ∧
      t.trace = s.trace ++ owedWrites s ∧
      (∀ out ∈ t.outputs, out.committed = some out.desired) ∧
      t.outputs.map (·.desired) = s.outputs.map (·.desired))

/-- 45_step_orchestrator.md R184, R186, R189, 42_clock_edge_detector.md R140: ACK of a CLK1 hook goes on at CLK2: an
edge of an enabled CLK2 with an enabled hook stops there with nothing committed; on a steady level, or an edge whose
hook is not enabled, CLK2 takes its level and event and the cycle goes on at the STEP hook. With CLK2 disabled, and
for the ACK of a CLK2 hook, it goes on at the STEP hook as well: stops there if it is enabled, else ends the cycle
with every output committed. -/
def Obligations.AckOfAClockHookGoesOn : Prop :=
  (∀ s : State, s.mode = .run →
    ((s.hook = .rise1 ∨ s.hook = .fall1) ∧ s.clk2.src.en = false ∨ s.hook = .rise2 ∨ s.hook = .fall2) →
    (s.ctrl.heStep = true → exec .ack s =
      .next { s with res := 0, hook := .step, phase := .stepHook }) ∧
    (s.ctrl.heStep = false → analogCount s ≤ 4 → busIdle s.pins →
      ∃ t, exec .ack s = .next t ∧
        t = { s with res := 0, hook := .none, phase := .idle,
                     outputs := t.outputs, pins := t.pins, free := t.free, trace := t.trace } ∧
        t.trace = s.trace ++ owedWrites s ∧ (∀ out ∈ t.outputs, out.committed = some out.desired))) ∧
  (∀ (s : State) (ch : Channel), s.mode = .run → (s.hook = .rise1 ∨ s.hook = .fall1) →
    s.clk2.src.en = true → s.inputs[s.clk2.src.idx.toNat]? = some ch →
    (s.clk2.level = false → ch.reading ≠ 0 → s.ctrl.heRise2 = true → exec .ack s =
      .next { s with res := 0, hook := .rise2, phase := .clk2,
                     clk2 := { s.clk2 with level := true, rise := true } }) ∧
    (s.clk2.level = true → ch.reading = 0 → s.ctrl.heFall2 = true → exec .ack s =
      .next { s with res := 0, hook := .fall2, phase := .clk2,
                     clk2 := { s.clk2 with level := false, fall := true } }) ∧
    (¬(s.clk2.level = false ∧ ch.reading ≠ 0 ∧ s.ctrl.heRise2 = true) →
      ¬(s.clk2.level = true ∧ ch.reading = 0 ∧ s.ctrl.heFall2 = true) →
      let clk2 : Clock :=
        if s.clk2.level = false ∧ ch.reading ≠ 0 then { s.clk2 with level := true, rise := true }
        else if s.clk2.level = true ∧ ch.reading = 0 then { s.clk2 with level := false, fall := true }
        else s.clk2
      (s.ctrl.heStep = true → exec .ack s =
        .next { s with res := 0, hook := .step, phase := .stepHook, clk2 := clk2 }) ∧
      (s.ctrl.heStep = false → analogCount s ≤ 4 → busIdle s.pins →
        ∃ t, exec .ack s = .next t ∧
          t = { s with res := 0, hook := .none, phase := .idle, clk2 := clk2,
                       outputs := t.outputs, pins := t.pins, free := t.free, trace := t.trace } ∧
          t.trace = s.trace ++ owedWrites s ∧ (∀ out ∈ t.outputs, out.committed = some out.desired))))

/-- 45_step_orchestrator.md R180, R191, 10_state.md R21: U_HOOK sets HOOK to its kind and changes nothing else.
That it is so in every mode is the model's choice (log entry 27). -/
def Obligations.UHookRequestsItsKind : Prop :=
  ∀ s : State,
    exec (.uHook 1) s = .next { s with hook := .start } ∧
    exec (.uHook 2) s = .next { s with hook := .rise1 } ∧
    exec (.uHook 3) s = .next { s with hook := .fall1 } ∧
    exec (.uHook 4) s = .next { s with hook := .rise2 } ∧
    exec (.uHook 5) s = .next { s with hook := .fall2 } ∧
    exec (.uHook 6) s = .next { s with hook := .step }

/-! ### Scale Quantizer -/

/-- 46_scale_quantizer.md R201, 60_exceptions.md R225: QUANT answers quant of OPA over the scale OPB[11:0] (an empty
scale answers OPA), raises RANGE where it does not fit, and changes nothing else. -/
def Obligations.QuantAnswers : Prop :=
  encode .quant = .cmd 0x13000000 ∧
  ∀ s : State, s.mode ≠ .halted →
    (s.opb.extractLsb' 0 12 = 0 → exec .quant s = .next { s with res := s.opa }) ∧
    exec .quant s = .next (
      let r := quant s.params s.opa.toInt (s.opb.extractLsb' 0 12)
      if -2147483648 ≤ r ∧ r ≤ 2147483647 then { s with res := BitVec.ofInt 32 r }
      else { s with res := 0, mode := .halted, faultCode := .range, faultInfo := s.cw })

/-- 46_scale_quantizer.md R200, R206, R207, R208: with an enabled tone the search ends within its 6 expansions, and
the result is the tone nearest to the position on the unwrapped semitone line, ties downward. -/
def Obligations.QuantFindsTheNearestTone : Prop :=
  ∀ (p : Params) (mv : Int) (mask : BitVec 12), mask ≠ 0 →
    ∃ (t : Nat) (sh : Int), t < 12 ∧ mask.getLsbD t = true ∧
      quant p mv mask = 1000 * (mv / 1000) + 1000 * sh +
        (match p.toneMv with
          | .floorOfExact => (1000 * (t : Int)) / 12
          | .times83 => 83 * (t : Int)) ∧
      ∀ (t' : Nat) (sh' : Int), t' < 12 → mask.getLsbD t' = true →
        |12 * (mv % 1000) - 1000 * ((t : Int) + 12 * sh)| ≤
            |12 * (mv % 1000) - 1000 * ((t' : Int) + 12 * sh')| ∧
        (|12 * (mv % 1000) - 1000 * ((t : Int) + 12 * sh)| =
            |12 * (mv % 1000) - 1000 * ((t' : Int) + 12 * sh')| →
          (t : Int) + 12 * sh ≤ (t' : Int) + 12 * sh')

/-- 46_scale_quantizer.md R207: the search of a scale that is not empty ends with a tone within 7 examinations, and
more fuel changes nothing; 6 expansions are needed for mv = 500 with only tone 0. -/
def Obligations.QuantSearchTerminates : Prop :=
  (∀ (mv : Int) (mask : BitVec 12), mask ≠ 0 → (quantTone mv mask).isSome = true) ∧
  (∀ (mask : BitVec 12) (pos : Int) (n m lo hi : Nat) (a b : Int) (r : Nat × Int),
    quantSearch mask pos n lo hi a b = some r → quantSearch mask pos (n + m) lo hi a b = some r) ∧
  quantSearch 0x001 (quantPos 500) 6 6 6 0 0 = none ∧ quantSearch 0x001 (quantPos 500) 7 6 6 0 0 = some (0, 0)

/-- 46_scale_quantizer.md R212: quant's result differs from mv by less than 1000, with either table, so an input at
least 1000 mV inside the 32-bit range is answered; and the rule's three examples, each of which raises RANGE. -/
def Obligations.QuantStaysWithinAnOctave : Prop :=
  (∀ (p : Params) (mv : Int) (mask : BitVec 12), |quant p mv mask - mv| < 1000) ∧
  (∀ s : State, s.mode ≠ .halted → -2147482648 ≤ s.opa.toInt → s.opa.toInt ≤ 2147482647 →
    exec .quant s = .next { s with
      res := BitVec.ofInt 32 (quant s.params s.opa.toInt (s.opb.extractLsb' 0 12)) }) ∧
  (∀ p : Params, p.toneMv = .floorOfExact →
    quant p 2147483647 0x001 = 2147484000 ∧ quant p 2147483647 0xFFF = 2147483666 ∧
    quant p (-2147483648) 0xFFF = -2147483667) ∧
  (∀ s : State, s.mode ≠ .halted → s.params.toneMv = .floorOfExact →
    (s.opa = 2147483647 ∧ (s.opb = 0x001 ∨ s.opb = 0xFFF) ∨ s.opa = -2147483648 ∧ s.opb = 0xFFF) →
    exec .quant s = .next { s with res := 0, mode := .halted, faultCode := .range, faultInfo := s.cw })

/-! ### Modes, faults and reset -/

/-- 60_exceptions.md R218, 45_step_orchestrator.md R182, R183, R184: START, STEP and ACK where the state of the block
does not allow them raise BAD_PHASE with FAULT_INFO = CW. -/
def Obligations.CommandsOutOfPhase : Prop :=
  ∀ s : State, s.mode ≠ .halted →
    (s.mode ≠ .config → exec .start s = .next { s with
      res := 0, mode := .halted, faultCode := .badPhase, faultInfo := s.cw }) ∧
    (¬(s.mode = .run ∧ s.phase = .idle ∧ s.hook = .none) → exec .step s = .next { s with
      res := 0, mode := .halted, faultCode := .badPhase, faultInfo := s.cw }) ∧
    (¬(s.mode = .run ∧ s.hook ≠ .none) → exec .ack s = .next { s with
      res := 0, mode := .halted, faultCode := .badPhase, faultInfo := s.cw })

/-- 60_exceptions.md R220: in HALTED a command of the host changes RES and the latches alone; RES is 0 unless the
command is an RD of a mapped address. That the command still writes CW, OPA, OPB and OPC is the model's reading of
10_state.md R18 (log entry 9), and that it is the first of a list of inputs the model's choice (log entry 2). -/
def Obligations.HaltedIsSticky : Prop :=
  ∀ (s : State) (c : Cmd) (rest : List Input), s.inbox = .cmd c :: rest → s.mode = .halted →
    step s = .next { s with
      inbox := rest, cw := c.cw, opa := c.opa, opb := c.opb, opc := c.opc,
      res := if c.cw.extractLsb' 16 16 = 0x0200 then (s.readAt (c.cw.extractLsb' 0 16)).getD 0 else 0 }

/-- 70_reset_and_hazards.md R232, R234, 10_state.md R29, R41: RST gives every state element its reset value, whatever the
state, keeps the bus trace and the counts, and takes no command. The model's own choices in it: RST lands between two
commands and leaves the inputs and the draws still to come as they are (log entries 2 and 17), the LDAC_n of a chip
whose strobe is not wired is held at 1 (log entry 19), and DOUT takes free values (log entry 7). -/
def Obligations.RstRestoresTheResetState : Prop :=
  ∀ (s : State) (rest : List Input) (n : Counts), s.inbox = .rst :: rest →
    s.inputs.length = n.nIn → s.pots.length = n.nPot → s.switches.length = n.nSw → s.outputs.length = n.nOut →
    ∃ t, step s = .next t ∧
      t = { State.resetWith n s.params with
        inbox := rest, samples := s.samples, free := t.free, trace := s.trace, outputs := t.outputs } ∧
      t.outputs.map (fun x => (x.analog, x.desired, x.committed)) =
        List.replicate n.nOut (false, (0 : Word), (none : Option Word))

/-- 70_reset_and_hazards.md R234: the reset value of every state element of any implementation, the registers
as the host reads them; of LDAC_n where it is wired; and DOUT may be at any value. -/
def Obligations.ResetRegisterValues : Prop :=
  ∀ (n : Counts) (p : Params),
    let s := State.resetWith n p
    s.readAt 0 = some 0 ∧ s.readAt 1 = some 0 ∧ s.readAt 2 = some 0 ∧ s.readAt 3 = some 0 ∧
    s.readAt 4 = some 0 ∧ s.readAt 5 = some 0 ∧ s.readAt 6 = some 0 ∧
    (∃ pa, s.readAt 7 = some pa ∧
      pa.toNat = n.nIn.val + 256 * n.nPot.val + 65536 * n.nSw.val + 16777216 * n.nOut.val) ∧
    (∀ b c, c < (s.bank b).length →
      s.readReg (.chan b c .cctl) = 2 ∧ s.readReg (.chan b c .r1) = 0 ∧ s.readReg (.chan b c .r2) = 0 ∧
      s.readReg (.chan b c .cutoff) = 0 ∧ s.readReg (.chan b c .vmax) = 0 ∧ s.readReg (.chan b c .tol) = 1 ∧
      s.readReg (.chan b c .reading) = 0) ∧
    (∀ o, o < s.outputs.length → s.readReg (.out o .octl) = 0 ∧ s.readReg (.out o .desired) = 0) ∧
    (∀ out ∈ s.outputs, out.committed = none) ∧
    (∀ b, ∀ ch ∈ s.bank b, ch.hist = ⟨0, 0, 0, 0, 0, 0, 0, 0⟩) ∧
    s.clk1.level = false ∧ s.clk2.level = false ∧
    s.cw = 0 ∧ s.opa = 0 ∧ s.opb = 0 ∧ s.opc = 0 ∧ s.res = 0 ∧
    s.mode = .config ∧ s.hook = .none ∧ s.phase = .idle ∧ s.faultCode = .none ∧
    s.pins.csN0 = true ∧ s.pins.csN1 = true ∧ s.pins.sck = false ∧ s.pins.sdi = false ∧
    (p.ldacWired0 = true → s.pins.ldacN0 = true) ∧ (p.ldacWired1 = true → s.pins.ldacN1 = true) ∧ s.trace = []

/-- 70_reset_and_hazards.md R235 (a): right after reset START succeeds exactly when there is no pot. -/
def Obligations.StartAfterReset : Prop :=
  ∀ (n : Counts) (p : Params),
    (n.nPot = 0 → ∃ t, exec .start (State.resetWith n p) = .next t ∧ t.mode = .run ∧ t.phase = .idle) ∧
    (n.nPot ≠ 0 → ∃ t, exec .start (State.resetWith n p) = .next t ∧ t.mode = .halted ∧
      t.faultCode = .divZero ∧ t.faultInfo = 0x0204)

/-- 70_reset_and_hazards.md R234 and the pieces of the invariant: the reset state of every implementation has it. -/
def Obligations.ResetHasTheInvariant : Prop :=
  ∀ (n : Counts) (p : Params), RunInv (State.resetWith n p)

/-- 45_step_orchestrator.md R185, 10_state.md R21, R24, R34, 42_clock_edge_detector.md R139, R141, 43_dac_frame_encoder.md
R155, R158: every step keeps the invariant, whatever the host issues, the environment presents and the free values
are. -/
def Obligations.StepKeepsTheInvariant : Prop :=
  ∀ s t : State, RunInv s → step s = .next t → RunInv t

/-- 40_host_interface.md R84, 60_exceptions.md R218: from a state with the invariant every input of the host has an
answer: a step never stops. -/
def Obligations.StepAlwaysAnswers : Prop :=
  ∀ s : State, RunInv s → ∃ t, step s = .next t

/-- 10_state.md R43, 70_reset_and_hazards.md R244, 20_memory.md R61: in RUN and in HALTED nothing but RST changes a
configuration register. -/
def Obligations.ConfigurationIsFrozen : Prop :=
  ∀ s t : State, s.mode ≠ .config → (∀ rest, s.inbox ≠ .rst :: rest) → step s = .next t →
    t.configView = s.configView

/-- 10_state.md R41: the bus trace is append-only, over every step, resets among them; and only U_DACXFER and U_COMMIT,
and STEP and ACK, which perform U_COMMIT, append to it. -/
def Obligations.TraceIsAppendOnly : Prop :=
  (∀ s t : State, step s = .next t → ∃ l, t.trace = s.trace ++ l) ∧
  (∀ (i : Instr) (s t : State), (∀ k, i ≠ .uDacxfer k) → (∀ o, i ≠ .uCommit o) → i ≠ .step → i ≠ .ack →
    exec i s = .next t → t.trace = s.trace)

/-- 10_state.md R29, 00_scope.md R7: PARAMS and the parameters are constants of the machine. -/
def Obligations.ParametersAreConstant : Prop :=
  ∀ s t : State, step s = .next t →
    t.params = s.params ∧ t.inputs.length = s.inputs.length ∧ t.pots.length = s.pots.length ∧
    t.switches.length = s.switches.length ∧ t.outputs.length = s.outputs.length ∧ paramsWord t = paramsWord s

/-- 45_step_orchestrator.md R192, 40_host_interface.md R84, 10_state.md R44: a host command other than STEP and ACK
changes no READING, HIST, LEVEL, EVENTS, COMMITTED, pin or trace event. -/
def Obligations.OnlyStepAndAckTouchTheCycle : Prop :=
  ∀ (i : Instr) (s t : State), i.isHost = true → i ≠ .step → i ≠ .ack → exec i s = .next t →
    (∀ b, (t.bank b).map (fun ch => (ch.reading, ch.hist)) = (s.bank b).map (fun ch => (ch.reading, ch.hist))) ∧
    (∀ n, ((t.clock n).level, (t.clock n).rise, (t.clock n).fall) =
      ((s.clock n).level, (s.clock n).rise, (s.clock n).fall)) ∧
    t.outputs.map (fun x => (x.committed, x.dout)) = s.outputs.map (fun x => (x.committed, x.dout)) ∧
    t.pins = s.pins ∧ t.trace = s.trace ∧ t.samples = s.samples

/-- 10_state.md R44: DESIRED is written only by the host's WR: no other instruction changes it. -/
def Obligations.OnlyWrChangesDesired : Prop :=
  ∀ (i : Instr) (s t : State), (∀ a, i ≠ .wr a) → exec i s = .next t →
    t.outputs.map (·.desired) = s.outputs.map (·.desired)

/-- 30_encoding.md R66, spec/opcode_table.json ("never issued"), 60_exceptions.md R224 and log entry 5 (the model's
choice): a micro-operation with an operand that the sequencer never issues is refused, and has no effect. -/
def Obligations.NeverIssuedOperandsAreRefused : Prop :=
  ∀ s : State,
    (∀ c, exec (.uCond 0 c) s = .refused .neverIssued ∧ exec (.uSmooth 0 c) s = .refused .neverIssued) ∧
    (∀ k b c, bankOfCode k = some b → (s.bank b).length ≤ c.toNat →
      exec (.uCond k c) s = .refused .neverIssued ∧ exec (.uSmooth k c) s = .refused .neverIssued) ∧
    (∀ o : BitVec 16, s.outputs.length ≤ o.toNat → exec (.uCommit o) s = .refused .neverIssued) ∧
    exec (.uHook 0) s = .refused .neverIssued ∧ exec (.uHook 7) s = .refused .neverIssued
end

