-- ==== Sys2Proof/Laws/State.lean ====
section
/-! SUPPORT. The fields of every update of State: what an update sets, and that it leaves every other field. -/

namespace Sys2Proof.Machine

/-! ### setRes -/

@[simp] theorem State.setRes_params (s : State) (w : Word) : (s.setRes w).params = s.params := rfl
@[simp] theorem State.setRes_inbox (s : State) (w : Word) : (s.setRes w).inbox = s.inbox := rfl
@[simp] theorem State.setRes_samples (s : State) (w : Word) : (s.setRes w).samples = s.samples := rfl
@[simp] theorem State.setRes_free (s : State) (w : Word) : (s.setRes w).free = s.free := rfl
@[simp] theorem State.setRes_cw (s : State) (w : Word) : (s.setRes w).cw = s.cw := rfl
@[simp] theorem State.setRes_opa (s : State) (w : Word) : (s.setRes w).opa = s.opa := rfl
@[simp] theorem State.setRes_opb (s : State) (w : Word) : (s.setRes w).opb = s.opb := rfl
@[simp] theorem State.setRes_opc (s : State) (w : Word) : (s.setRes w).opc = s.opc := rfl
@[simp] theorem State.setRes_res (s : State) (w : Word) : (s.setRes w).res = w := rfl
@[simp] theorem State.setRes_mode (s : State) (w : Word) : (s.setRes w).mode = s.mode := rfl
@[simp] theorem State.setRes_hook (s : State) (w : Word) : (s.setRes w).hook = s.hook := rfl
@[simp] theorem State.setRes_phase (s : State) (w : Word) : (s.setRes w).phase = s.phase := rfl
@[simp] theorem State.setRes_faultCode (s : State) (w : Word) : (s.setRes w).faultCode = s.faultCode := rfl
@[simp] theorem State.setRes_faultInfo (s : State) (w : Word) : (s.setRes w).faultInfo = s.faultInfo := rfl
@[simp] theorem State.setRes_ctrl (s : State) (w : Word) : (s.setRes w).ctrl = s.ctrl := rfl
@[simp] theorem State.setRes_clk1 (s : State) (w : Word) : (s.setRes w).clk1 = s.clk1 := rfl
@[simp] theorem State.setRes_clk2 (s : State) (w : Word) : (s.setRes w).clk2 = s.clk2 := rfl
@[simp] theorem State.setRes_inputs (s : State) (w : Word) : (s.setRes w).inputs = s.inputs := rfl
@[simp] theorem State.setRes_pots (s : State) (w : Word) : (s.setRes w).pots = s.pots := rfl
@[simp] theorem State.setRes_switches (s : State) (w : Word) : (s.setRes w).switches = s.switches := rfl
@[simp] theorem State.setRes_outputs (s : State) (w : Word) : (s.setRes w).outputs = s.outputs := rfl
@[simp] theorem State.setRes_pins (s : State) (w : Word) : (s.setRes w).pins = s.pins := rfl
@[simp] theorem State.setRes_trace (s : State) (w : Word) : (s.setRes w).trace = s.trace := rfl

/-! ### setMode -/

@[simp] theorem State.setMode_params (s : State) (m : Mode) : (s.setMode m).params = s.params := rfl
@[simp] theorem State.setMode_inbox (s : State) (m : Mode) : (s.setMode m).inbox = s.inbox := rfl
@[simp] theorem State.setMode_samples (s : State) (m : Mode) : (s.setMode m).samples = s.samples := rfl
@[simp] theorem State.setMode_free (s : State) (m : Mode) : (s.setMode m).free = s.free := rfl
@[simp] theorem State.setMode_cw (s : State) (m : Mode) : (s.setMode m).cw = s.cw := rfl
@[simp] theorem State.setMode_opa (s : State) (m : Mode) : (s.setMode m).opa = s.opa := rfl
@[simp] theorem State.setMode_opb (s : State) (m : Mode) : (s.setMode m).opb = s.opb := rfl
@[simp] theorem State.setMode_opc (s : State) (m : Mode) : (s.setMode m).opc = s.opc := rfl
@[simp] theorem State.setMode_res (s : State) (m : Mode) : (s.setMode m).res = s.res := rfl
@[simp] theorem State.setMode_mode (s : State) (m : Mode) : (s.setMode m).mode = m := rfl
@[simp] theorem State.setMode_hook (s : State) (m : Mode) : (s.setMode m).hook = s.hook := rfl
@[simp] theorem State.setMode_phase (s : State) (m : Mode) : (s.setMode m).phase = s.phase := rfl
@[simp] theorem State.setMode_faultCode (s : State) (m : Mode) : (s.setMode m).faultCode = s.faultCode := rfl
@[simp] theorem State.setMode_faultInfo (s : State) (m : Mode) : (s.setMode m).faultInfo = s.faultInfo := rfl
@[simp] theorem State.setMode_ctrl (s : State) (m : Mode) : (s.setMode m).ctrl = s.ctrl := rfl
@[simp] theorem State.setMode_clk1 (s : State) (m : Mode) : (s.setMode m).clk1 = s.clk1 := rfl
@[simp] theorem State.setMode_clk2 (s : State) (m : Mode) : (s.setMode m).clk2 = s.clk2 := rfl
@[simp] theorem State.setMode_inputs (s : State) (m : Mode) : (s.setMode m).inputs = s.inputs := rfl
@[simp] theorem State.setMode_pots (s : State) (m : Mode) : (s.setMode m).pots = s.pots := rfl
@[simp] theorem State.setMode_switches (s : State) (m : Mode) : (s.setMode m).switches = s.switches := rfl
@[simp] theorem State.setMode_outputs (s : State) (m : Mode) : (s.setMode m).outputs = s.outputs := rfl
@[simp] theorem State.setMode_pins (s : State) (m : Mode) : (s.setMode m).pins = s.pins := rfl
@[simp] theorem State.setMode_trace (s : State) (m : Mode) : (s.setMode m).trace = s.trace := rfl

/-! ### setHook -/

@[simp] theorem State.setHook_params (s : State) (h : Hook) : (s.setHook h).params = s.params := rfl
@[simp] theorem State.setHook_inbox (s : State) (h : Hook) : (s.setHook h).inbox = s.inbox := rfl
@[simp] theorem State.setHook_samples (s : State) (h : Hook) : (s.setHook h).samples = s.samples := rfl
@[simp] theorem State.setHook_free (s : State) (h : Hook) : (s.setHook h).free = s.free := rfl
@[simp] theorem State.setHook_cw (s : State) (h : Hook) : (s.setHook h).cw = s.cw := rfl
@[simp] theorem State.setHook_opa (s : State) (h : Hook) : (s.setHook h).opa = s.opa := rfl
@[simp] theorem State.setHook_opb (s : State) (h : Hook) : (s.setHook h).opb = s.opb := rfl
@[simp] theorem State.setHook_opc (s : State) (h : Hook) : (s.setHook h).opc = s.opc := rfl
@[simp] theorem State.setHook_res (s : State) (h : Hook) : (s.setHook h).res = s.res := rfl
@[simp] theorem State.setHook_mode (s : State) (h : Hook) : (s.setHook h).mode = s.mode := rfl
@[simp] theorem State.setHook_hook (s : State) (h : Hook) : (s.setHook h).hook = h := rfl
@[simp] theorem State.setHook_phase (s : State) (h : Hook) : (s.setHook h).phase = s.phase := rfl
@[simp] theorem State.setHook_faultCode (s : State) (h : Hook) : (s.setHook h).faultCode = s.faultCode := rfl
@[simp] theorem State.setHook_faultInfo (s : State) (h : Hook) : (s.setHook h).faultInfo = s.faultInfo := rfl
@[simp] theorem State.setHook_ctrl (s : State) (h : Hook) : (s.setHook h).ctrl = s.ctrl := rfl
@[simp] theorem State.setHook_clk1 (s : State) (h : Hook) : (s.setHook h).clk1 = s.clk1 := rfl
@[simp] theorem State.setHook_clk2 (s : State) (h : Hook) : (s.setHook h).clk2 = s.clk2 := rfl
@[simp] theorem State.setHook_inputs (s : State) (h : Hook) : (s.setHook h).inputs = s.inputs := rfl
@[simp] theorem State.setHook_pots (s : State) (h : Hook) : (s.setHook h).pots = s.pots := rfl
@[simp] theorem State.setHook_switches (s : State) (h : Hook) : (s.setHook h).switches = s.switches := rfl
@[simp] theorem State.setHook_outputs (s : State) (h : Hook) : (s.setHook h).outputs = s.outputs := rfl
@[simp] theorem State.setHook_pins (s : State) (h : Hook) : (s.setHook h).pins = s.pins := rfl
@[simp] theorem State.setHook_trace (s : State) (h : Hook) : (s.setHook h).trace = s.trace := rfl

/-! ### setPhase -/

@[simp] theorem State.setPhase_params (s : State) (p : Phase) : (s.setPhase p).params = s.params := rfl
@[simp] theorem State.setPhase_inbox (s : State) (p : Phase) : (s.setPhase p).inbox = s.inbox := rfl
@[simp] theorem State.setPhase_samples (s : State) (p : Phase) : (s.setPhase p).samples = s.samples := rfl
@[simp] theorem State.setPhase_free (s : State) (p : Phase) : (s.setPhase p).free = s.free := rfl
@[simp] theorem State.setPhase_cw (s : State) (p : Phase) : (s.setPhase p).cw = s.cw := rfl
@[simp] theorem State.setPhase_opa (s : State) (p : Phase) : (s.setPhase p).opa = s.opa := rfl
@[simp] theorem State.setPhase_opb (s : State) (p : Phase) : (s.setPhase p).opb = s.opb := rfl
@[simp] theorem State.setPhase_opc (s : State) (p : Phase) : (s.setPhase p).opc = s.opc := rfl
@[simp] theorem State.setPhase_res (s : State) (p : Phase) : (s.setPhase p).res = s.res := rfl
@[simp] theorem State.setPhase_mode (s : State) (p : Phase) : (s.setPhase p).mode = s.mode := rfl
@[simp] theorem State.setPhase_hook (s : State) (p : Phase) : (s.setPhase p).hook = s.hook := rfl
@[simp] theorem State.setPhase_phase (s : State) (p : Phase) : (s.setPhase p).phase = p := rfl
@[simp] theorem State.setPhase_faultCode (s : State) (p : Phase) : (s.setPhase p).faultCode = s.faultCode := rfl
@[simp] theorem State.setPhase_faultInfo (s : State) (p : Phase) : (s.setPhase p).faultInfo = s.faultInfo := rfl
@[simp] theorem State.setPhase_ctrl (s : State) (p : Phase) : (s.setPhase p).ctrl = s.ctrl := rfl
@[simp] theorem State.setPhase_clk1 (s : State) (p : Phase) : (s.setPhase p).clk1 = s.clk1 := rfl
@[simp] theorem State.setPhase_clk2 (s : State) (p : Phase) : (s.setPhase p).clk2 = s.clk2 := rfl
@[simp] theorem State.setPhase_inputs (s : State) (p : Phase) : (s.setPhase p).inputs = s.inputs := rfl
@[simp] theorem State.setPhase_pots (s : State) (p : Phase) : (s.setPhase p).pots = s.pots := rfl
@[simp] theorem State.setPhase_switches (s : State) (p : Phase) : (s.setPhase p).switches = s.switches := rfl
@[simp] theorem State.setPhase_outputs (s : State) (p : Phase) : (s.setPhase p).outputs = s.outputs := rfl
@[simp] theorem State.setPhase_pins (s : State) (p : Phase) : (s.setPhase p).pins = s.pins := rfl
@[simp] theorem State.setPhase_trace (s : State) (p : Phase) : (s.setPhase p).trace = s.trace := rfl

/-! ### latch -/

@[simp] theorem State.latch_params (s : State) (c : Cmd) : (s.latch c).params = s.params := rfl
@[simp] theorem State.latch_inbox (s : State) (c : Cmd) : (s.latch c).inbox = s.inbox := rfl
@[simp] theorem State.latch_samples (s : State) (c : Cmd) : (s.latch c).samples = s.samples := rfl
@[simp] theorem State.latch_free (s : State) (c : Cmd) : (s.latch c).free = s.free := rfl
@[simp] theorem State.latch_cw (s : State) (c : Cmd) : (s.latch c).cw = c.cw := rfl
@[simp] theorem State.latch_opa (s : State) (c : Cmd) : (s.latch c).opa = c.opa := rfl
@[simp] theorem State.latch_opb (s : State) (c : Cmd) : (s.latch c).opb = c.opb := rfl
@[simp] theorem State.latch_opc (s : State) (c : Cmd) : (s.latch c).opc = c.opc := rfl
@[simp] theorem State.latch_res (s : State) (c : Cmd) : (s.latch c).res = s.res := rfl
@[simp] theorem State.latch_mode (s : State) (c : Cmd) : (s.latch c).mode = s.mode := rfl
@[simp] theorem State.latch_hook (s : State) (c : Cmd) : (s.latch c).hook = s.hook := rfl
@[simp] theorem State.latch_phase (s : State) (c : Cmd) : (s.latch c).phase = s.phase := rfl
@[simp] theorem State.latch_faultCode (s : State) (c : Cmd) : (s.latch c).faultCode = s.faultCode := rfl
@[simp] theorem State.latch_faultInfo (s : State) (c : Cmd) : (s.latch c).faultInfo = s.faultInfo := rfl
@[simp] theorem State.latch_ctrl (s : State) (c : Cmd) : (s.latch c).ctrl = s.ctrl := rfl
@[simp] theorem State.latch_clk1 (s : State) (c : Cmd) : (s.latch c).clk1 = s.clk1 := rfl
@[simp] theorem State.latch_clk2 (s : State) (c : Cmd) : (s.latch c).clk2 = s.clk2 := rfl
@[simp] theorem State.latch_inputs (s : State) (c : Cmd) : (s.latch c).inputs = s.inputs := rfl
@[simp] theorem State.latch_pots (s : State) (c : Cmd) : (s.latch c).pots = s.pots := rfl
@[simp] theorem State.latch_switches (s : State) (c : Cmd) : (s.latch c).switches = s.switches := rfl
@[simp] theorem State.latch_outputs (s : State) (c : Cmd) : (s.latch c).outputs = s.outputs := rfl
@[simp] theorem State.latch_pins (s : State) (c : Cmd) : (s.latch c).pins = s.pins := rfl
@[simp] theorem State.latch_trace (s : State) (c : Cmd) : (s.latch c).trace = s.trace := rfl

/-! ### setFault -/

@[simp] theorem State.setFault_params (s : State) (code : FaultCode) (info : Word) : (s.setFault code info).params = s.params := rfl
@[simp] theorem State.setFault_inbox (s : State) (code : FaultCode) (info : Word) : (s.setFault code info).inbox = s.inbox := rfl
@[simp] theorem State.setFault_samples (s : State) (code : FaultCode) (info : Word) : (s.setFault code info).samples = s.samples := rfl
@[simp] theorem State.setFault_free (s : State) (code : FaultCode) (info : Word) : (s.setFault code info).free = s.free := rfl
@[simp] theorem State.setFault_cw (s : State) (code : FaultCode) (info : Word) : (s.setFault code info).cw = s.cw := rfl
@[simp] theorem State.setFault_opa (s : State) (code : FaultCode) (info : Word) : (s.setFault code info).opa = s.opa := rfl
@[simp] theorem State.setFault_opb (s : State) (code : FaultCode) (info : Word) : (s.setFault code info).opb = s.opb := rfl
@[simp] theorem State.setFault_opc (s : State) (code : FaultCode) (info : Word) : (s.setFault code info).opc = s.opc := rfl
@[simp] theorem State.setFault_res (s : State) (code : FaultCode) (info : Word) : (s.setFault code info).res = s.res := rfl
@[simp] theorem State.setFault_mode (s : State) (code : FaultCode) (info : Word) : (s.setFault code info).mode = s.mode := rfl
@[simp] theorem State.setFault_hook (s : State) (code : FaultCode) (info : Word) : (s.setFault code info).hook = s.hook := rfl
@[simp] theorem State.setFault_phase (s : State) (code : FaultCode) (info : Word) : (s.setFault code info).phase = s.phase := rfl
@[simp] theorem State.setFault_faultCode (s : State) (code : FaultCode) (info : Word) : (s.setFault code info).faultCode = code := rfl
@[simp] theorem State.setFault_faultInfo (s : State) (code : FaultCode) (info : Word) : (s.setFault code info).faultInfo = info := rfl
@[simp] theorem State.setFault_ctrl (s : State) (code : FaultCode) (info : Word) : (s.setFault code info).ctrl = s.ctrl := rfl
@[simp] theorem State.setFault_clk1 (s : State) (code : FaultCode) (info : Word) : (s.setFault code info).clk1 = s.clk1 := rfl
@[simp] theorem State.setFault_clk2 (s : State) (code : FaultCode) (info : Word) : (s.setFault code info).clk2 = s.clk2 := rfl
@[simp] theorem State.setFault_inputs (s : State) (code : FaultCode) (info : Word) : (s.setFault code info).inputs = s.inputs := rfl
@[simp] theorem State.setFault_pots (s : State) (code : FaultCode) (info : Word) : (s.setFault code info).pots = s.pots := rfl
@[simp] theorem State.setFault_switches (s : State) (code : FaultCode) (info : Word) : (s.setFault code info).switches = s.switches := rfl
@[simp] theorem State.setFault_outputs (s : State) (code : FaultCode) (info : Word) : (s.setFault code info).outputs = s.outputs := rfl
@[simp] theorem State.setFault_pins (s : State) (code : FaultCode) (info : Word) : (s.setFault code info).pins = s.pins := rfl
@[simp] theorem State.setFault_trace (s : State) (code : FaultCode) (info : Word) : (s.setFault code info).trace = s.trace := rfl

/-! ### setCtrl -/

@[simp] theorem State.setCtrl_params (s : State) (c : Ctrl) : (s.setCtrl c).params = s.params := rfl
@[simp] theorem State.setCtrl_inbox (s : State) (c : Ctrl) : (s.setCtrl c).inbox = s.inbox := rfl
@[simp] theorem State.setCtrl_samples (s : State) (c : Ctrl) : (s.setCtrl c).samples = s.samples := rfl
@[simp] theorem State.setCtrl_free (s : State) (c : Ctrl) : (s.setCtrl c).free = s.free := rfl
@[simp] theorem State.setCtrl_cw (s : State) (c : Ctrl) : (s.setCtrl c).cw = s.cw := rfl
@[simp] theorem State.setCtrl_opa (s : State) (c : Ctrl) : (s.setCtrl c).opa = s.opa := rfl
@[simp] theorem State.setCtrl_opb (s : State) (c : Ctrl) : (s.setCtrl c).opb = s.opb := rfl
@[simp] theorem State.setCtrl_opc (s : State) (c : Ctrl) : (s.setCtrl c).opc = s.opc := rfl
@[simp] theorem State.setCtrl_res (s : State) (c : Ctrl) : (s.setCtrl c).res = s.res := rfl
@[simp] theorem State.setCtrl_mode (s : State) (c : Ctrl) : (s.setCtrl c).mode = s.mode := rfl
@[simp] theorem State.setCtrl_hook (s : State) (c : Ctrl) : (s.setCtrl c).hook = s.hook := rfl
@[simp] theorem State.setCtrl_phase (s : State) (c : Ctrl) : (s.setCtrl c).phase = s.phase := rfl
@[simp] theorem State.setCtrl_faultCode (s : State) (c : Ctrl) : (s.setCtrl c).faultCode = s.faultCode := rfl
@[simp] theorem State.setCtrl_faultInfo (s : State) (c : Ctrl) : (s.setCtrl c).faultInfo = s.faultInfo := rfl
@[simp] theorem State.setCtrl_ctrl (s : State) (c : Ctrl) : (s.setCtrl c).ctrl = c := rfl
@[simp] theorem State.setCtrl_clk1 (s : State) (c : Ctrl) : (s.setCtrl c).clk1 = s.clk1 := rfl
@[simp] theorem State.setCtrl_clk2 (s : State) (c : Ctrl) : (s.setCtrl c).clk2 = s.clk2 := rfl
@[simp] theorem State.setCtrl_inputs (s : State) (c : Ctrl) : (s.setCtrl c).inputs = s.inputs := rfl
@[simp] theorem State.setCtrl_pots (s : State) (c : Ctrl) : (s.setCtrl c).pots = s.pots := rfl
@[simp] theorem State.setCtrl_switches (s : State) (c : Ctrl) : (s.setCtrl c).switches = s.switches := rfl
@[simp] theorem State.setCtrl_outputs (s : State) (c : Ctrl) : (s.setCtrl c).outputs = s.outputs := rfl
@[simp] theorem State.setCtrl_pins (s : State) (c : Ctrl) : (s.setCtrl c).pins = s.pins := rfl
@[simp] theorem State.setCtrl_trace (s : State) (c : Ctrl) : (s.setCtrl c).trace = s.trace := rfl

/-! ### setOutput -/

@[simp] theorem State.setOutput_params (s : State) (o : Nat) (out : Output) : (s.setOutput o out).params = s.params := rfl
@[simp] theorem State.setOutput_inbox (s : State) (o : Nat) (out : Output) : (s.setOutput o out).inbox = s.inbox := rfl
@[simp] theorem State.setOutput_samples (s : State) (o : Nat) (out : Output) : (s.setOutput o out).samples = s.samples := rfl
@[simp] theorem State.setOutput_free (s : State) (o : Nat) (out : Output) : (s.setOutput o out).free = s.free := rfl
@[simp] theorem State.setOutput_cw (s : State) (o : Nat) (out : Output) : (s.setOutput o out).cw = s.cw := rfl
@[simp] theorem State.setOutput_opa (s : State) (o : Nat) (out : Output) : (s.setOutput o out).opa = s.opa := rfl
@[simp] theorem State.setOutput_opb (s : State) (o : Nat) (out : Output) : (s.setOutput o out).opb = s.opb := rfl
@[simp] theorem State.setOutput_opc (s : State) (o : Nat) (out : Output) : (s.setOutput o out).opc = s.opc := rfl
@[simp] theorem State.setOutput_res (s : State) (o : Nat) (out : Output) : (s.setOutput o out).res = s.res := rfl
@[simp] theorem State.setOutput_mode (s : State) (o : Nat) (out : Output) : (s.setOutput o out).mode = s.mode := rfl
@[simp] theorem State.setOutput_hook (s : State) (o : Nat) (out : Output) : (s.setOutput o out).hook = s.hook := rfl
@[simp] theorem State.setOutput_phase (s : State) (o : Nat) (out : Output) : (s.setOutput o out).phase = s.phase := rfl
@[simp] theorem State.setOutput_faultCode (s : State) (o : Nat) (out : Output) : (s.setOutput o out).faultCode = s.faultCode := rfl
@[simp] theorem State.setOutput_faultInfo (s : State) (o : Nat) (out : Output) : (s.setOutput o out).faultInfo = s.faultInfo := rfl
@[simp] theorem State.setOutput_ctrl (s : State) (o : Nat) (out : Output) : (s.setOutput o out).ctrl = s.ctrl := rfl
@[simp] theorem State.setOutput_clk1 (s : State) (o : Nat) (out : Output) : (s.setOutput o out).clk1 = s.clk1 := rfl
@[simp] theorem State.setOutput_clk2 (s : State) (o : Nat) (out : Output) : (s.setOutput o out).clk2 = s.clk2 := rfl
@[simp] theorem State.setOutput_inputs (s : State) (o : Nat) (out : Output) : (s.setOutput o out).inputs = s.inputs := rfl
@[simp] theorem State.setOutput_pots (s : State) (o : Nat) (out : Output) : (s.setOutput o out).pots = s.pots := rfl
@[simp] theorem State.setOutput_switches (s : State) (o : Nat) (out : Output) : (s.setOutput o out).switches = s.switches := rfl
@[simp] theorem State.setOutput_outputs (s : State) (o : Nat) (out : Output) : (s.setOutput o out).outputs = s.outputs.set o out := rfl
@[simp] theorem State.setOutput_pins (s : State) (o : Nat) (out : Output) : (s.setOutput o out).pins = s.pins := rfl
@[simp] theorem State.setOutput_trace (s : State) (o : Nat) (out : Output) : (s.setOutput o out).trace = s.trace := rfl

/-! ### setPins -/

@[simp] theorem State.setPins_params (s : State) (p : Pins) : (s.setPins p).params = s.params := rfl
@[simp] theorem State.setPins_inbox (s : State) (p : Pins) : (s.setPins p).inbox = s.inbox := rfl
@[simp] theorem State.setPins_samples (s : State) (p : Pins) : (s.setPins p).samples = s.samples := rfl
@[simp] theorem State.setPins_free (s : State) (p : Pins) : (s.setPins p).free = s.free := rfl
@[simp] theorem State.setPins_cw (s : State) (p : Pins) : (s.setPins p).cw = s.cw := rfl
@[simp] theorem State.setPins_opa (s : State) (p : Pins) : (s.setPins p).opa = s.opa := rfl
@[simp] theorem State.setPins_opb (s : State) (p : Pins) : (s.setPins p).opb = s.opb := rfl
@[simp] theorem State.setPins_opc (s : State) (p : Pins) : (s.setPins p).opc = s.opc := rfl
@[simp] theorem State.setPins_res (s : State) (p : Pins) : (s.setPins p).res = s.res := rfl
@[simp] theorem State.setPins_mode (s : State) (p : Pins) : (s.setPins p).mode = s.mode := rfl
@[simp] theorem State.setPins_hook (s : State) (p : Pins) : (s.setPins p).hook = s.hook := rfl
@[simp] theorem State.setPins_phase (s : State) (p : Pins) : (s.setPins p).phase = s.phase := rfl
@[simp] theorem State.setPins_faultCode (s : State) (p : Pins) : (s.setPins p).faultCode = s.faultCode := rfl
@[simp] theorem State.setPins_faultInfo (s : State) (p : Pins) : (s.setPins p).faultInfo = s.faultInfo := rfl
@[simp] theorem State.setPins_ctrl (s : State) (p : Pins) : (s.setPins p).ctrl = s.ctrl := rfl
@[simp] theorem State.setPins_clk1 (s : State) (p : Pins) : (s.setPins p).clk1 = s.clk1 := rfl
@[simp] theorem State.setPins_clk2 (s : State) (p : Pins) : (s.setPins p).clk2 = s.clk2 := rfl
@[simp] theorem State.setPins_inputs (s : State) (p : Pins) : (s.setPins p).inputs = s.inputs := rfl
@[simp] theorem State.setPins_pots (s : State) (p : Pins) : (s.setPins p).pots = s.pots := rfl
@[simp] theorem State.setPins_switches (s : State) (p : Pins) : (s.setPins p).switches = s.switches := rfl
@[simp] theorem State.setPins_outputs (s : State) (p : Pins) : (s.setPins p).outputs = s.outputs := rfl
@[simp] theorem State.setPins_pins (s : State) (p : Pins) : (s.setPins p).pins = p := rfl
@[simp] theorem State.setPins_trace (s : State) (p : Pins) : (s.setPins p).trace = s.trace := rfl

/-! ### emit -/

@[simp] theorem State.emit_params (s : State) (e : BusEvent) : (s.emit e).params = s.params := rfl
@[simp] theorem State.emit_inbox (s : State) (e : BusEvent) : (s.emit e).inbox = s.inbox := rfl
@[simp] theorem State.emit_samples (s : State) (e : BusEvent) : (s.emit e).samples = s.samples := rfl
@[simp] theorem State.emit_free (s : State) (e : BusEvent) : (s.emit e).free = s.free := rfl
@[simp] theorem State.emit_cw (s : State) (e : BusEvent) : (s.emit e).cw = s.cw := rfl
@[simp] theorem State.emit_opa (s : State) (e : BusEvent) : (s.emit e).opa = s.opa := rfl
@[simp] theorem State.emit_opb (s : State) (e : BusEvent) : (s.emit e).opb = s.opb := rfl
@[simp] theorem State.emit_opc (s : State) (e : BusEvent) : (s.emit e).opc = s.opc := rfl
@[simp] theorem State.emit_res (s : State) (e : BusEvent) : (s.emit e).res = s.res := rfl
@[simp] theorem State.emit_mode (s : State) (e : BusEvent) : (s.emit e).mode = s.mode := rfl
@[simp] theorem State.emit_hook (s : State) (e : BusEvent) : (s.emit e).hook = s.hook := rfl
@[simp] theorem State.emit_phase (s : State) (e : BusEvent) : (s.emit e).phase = s.phase := rfl
@[simp] theorem State.emit_faultCode (s : State) (e : BusEvent) : (s.emit e).faultCode = s.faultCode := rfl
@[simp] theorem State.emit_faultInfo (s : State) (e : BusEvent) : (s.emit e).faultInfo = s.faultInfo := rfl
@[simp] theorem State.emit_ctrl (s : State) (e : BusEvent) : (s.emit e).ctrl = s.ctrl := rfl
@[simp] theorem State.emit_clk1 (s : State) (e : BusEvent) : (s.emit e).clk1 = s.clk1 := rfl
@[simp] theorem State.emit_clk2 (s : State) (e : BusEvent) : (s.emit e).clk2 = s.clk2 := rfl
@[simp] theorem State.emit_inputs (s : State) (e : BusEvent) : (s.emit e).inputs = s.inputs := rfl
@[simp] theorem State.emit_pots (s : State) (e : BusEvent) : (s.emit e).pots = s.pots := rfl
@[simp] theorem State.emit_switches (s : State) (e : BusEvent) : (s.emit e).switches = s.switches := rfl
@[simp] theorem State.emit_outputs (s : State) (e : BusEvent) : (s.emit e).outputs = s.outputs := rfl
@[simp] theorem State.emit_pins (s : State) (e : BusEvent) : (s.emit e).pins = s.pins := rfl
@[simp] theorem State.emit_trace (s : State) (e : BusEvent) : (s.emit e).trace = s.trace ++ [e] := rfl

/-! ### takeFree -/

@[simp] theorem State.takeFree_params (s : State) (n : Nat) : (s.takeFree n).params = s.params := rfl
@[simp] theorem State.takeFree_inbox (s : State) (n : Nat) : (s.takeFree n).inbox = s.inbox := rfl
@[simp] theorem State.takeFree_samples (s : State) (n : Nat) : (s.takeFree n).samples = s.samples := rfl
@[simp] theorem State.takeFree_free (s : State) (n : Nat) : (s.takeFree n).free = s.free + n := rfl
@[simp] theorem State.takeFree_cw (s : State) (n : Nat) : (s.takeFree n).cw = s.cw := rfl
@[simp] theorem State.takeFree_opa (s : State) (n : Nat) : (s.takeFree n).opa = s.opa := rfl
@[simp] theorem State.takeFree_opb (s : State) (n : Nat) : (s.takeFree n).opb = s.opb := rfl
@[simp] theorem State.takeFree_opc (s : State) (n : Nat) : (s.takeFree n).opc = s.opc := rfl
@[simp] theorem State.takeFree_res (s : State) (n : Nat) : (s.takeFree n).res = s.res := rfl
@[simp] theorem State.takeFree_mode (s : State) (n : Nat) : (s.takeFree n).mode = s.mode := rfl
@[simp] theorem State.takeFree_hook (s : State) (n : Nat) : (s.takeFree n).hook = s.hook := rfl
@[simp] theorem State.takeFree_phase (s : State) (n : Nat) : (s.takeFree n).phase = s.phase := rfl
@[simp] theorem State.takeFree_faultCode (s : State) (n : Nat) : (s.takeFree n).faultCode = s.faultCode := rfl
@[simp] theorem State.takeFree_faultInfo (s : State) (n : Nat) : (s.takeFree n).faultInfo = s.faultInfo := rfl
@[simp] theorem State.takeFree_ctrl (s : State) (n : Nat) : (s.takeFree n).ctrl = s.ctrl := rfl
@[simp] theorem State.takeFree_clk1 (s : State) (n : Nat) : (s.takeFree n).clk1 = s.clk1 := rfl
@[simp] theorem State.takeFree_clk2 (s : State) (n : Nat) : (s.takeFree n).clk2 = s.clk2 := rfl
@[simp] theorem State.takeFree_inputs (s : State) (n : Nat) : (s.takeFree n).inputs = s.inputs := rfl
@[simp] theorem State.takeFree_pots (s : State) (n : Nat) : (s.takeFree n).pots = s.pots := rfl
@[simp] theorem State.takeFree_switches (s : State) (n : Nat) : (s.takeFree n).switches = s.switches := rfl
@[simp] theorem State.takeFree_outputs (s : State) (n : Nat) : (s.takeFree n).outputs = s.outputs := rfl
@[simp] theorem State.takeFree_pins (s : State) (n : Nat) : (s.takeFree n).pins = s.pins := rfl
@[simp] theorem State.takeFree_trace (s : State) (n : Nat) : (s.takeFree n).trace = s.trace := rfl

/-! ### raise -/

@[simp] theorem State.raise_params (s : State) (code : FaultCode) (info : Word) : (s.raise code info).params = s.params := rfl
@[simp] theorem State.raise_inbox (s : State) (code : FaultCode) (info : Word) : (s.raise code info).inbox = s.inbox := rfl
@[simp] theorem State.raise_samples (s : State) (code : FaultCode) (info : Word) : (s.raise code info).samples = s.samples := rfl
@[simp] theorem State.raise_free (s : State) (code : FaultCode) (info : Word) : (s.raise code info).free = s.free := rfl
@[simp] theorem State.raise_cw (s : State) (code : FaultCode) (info : Word) : (s.raise code info).cw = s.cw := rfl
@[simp] theorem State.raise_opa (s : State) (code : FaultCode) (info : Word) : (s.raise code info).opa = s.opa := rfl
@[simp] theorem State.raise_opb (s : State) (code : FaultCode) (info : Word) : (s.raise code info).opb = s.opb := rfl
@[simp] theorem State.raise_opc (s : State) (code : FaultCode) (info : Word) : (s.raise code info).opc = s.opc := rfl
@[simp] theorem State.raise_res (s : State) (code : FaultCode) (info : Word) : (s.raise code info).res = 0 := rfl
@[simp] theorem State.raise_mode (s : State) (code : FaultCode) (info : Word) : (s.raise code info).mode = .halted := rfl
@[simp] theorem State.raise_hook (s : State) (code : FaultCode) (info : Word) : (s.raise code info).hook = s.hook := rfl
@[simp] theorem State.raise_phase (s : State) (code : FaultCode) (info : Word) : (s.raise code info).phase = s.phase := rfl
@[simp] theorem State.raise_faultCode (s : State) (code : FaultCode) (info : Word) : (s.raise code info).faultCode = code := rfl
@[simp] theorem State.raise_faultInfo (s : State) (code : FaultCode) (info : Word) : (s.raise code info).faultInfo = info := rfl
@[simp] theorem State.raise_ctrl (s : State) (code : FaultCode) (info : Word) : (s.raise code info).ctrl = s.ctrl := rfl
@[simp] theorem State.raise_clk1 (s : State) (code : FaultCode) (info : Word) : (s.raise code info).clk1 = s.clk1 := rfl
@[simp] theorem State.raise_clk2 (s : State) (code : FaultCode) (info : Word) : (s.raise code info).clk2 = s.clk2 := rfl
@[simp] theorem State.raise_inputs (s : State) (code : FaultCode) (info : Word) : (s.raise code info).inputs = s.inputs := rfl
@[simp] theorem State.raise_pots (s : State) (code : FaultCode) (info : Word) : (s.raise code info).pots = s.pots := rfl
@[simp] theorem State.raise_switches (s : State) (code : FaultCode) (info : Word) : (s.raise code info).switches = s.switches := rfl
@[simp] theorem State.raise_outputs (s : State) (code : FaultCode) (info : Word) : (s.raise code info).outputs = s.outputs := rfl
@[simp] theorem State.raise_pins (s : State) (code : FaultCode) (info : Word) : (s.raise code info).pins = s.pins := rfl
@[simp] theorem State.raise_trace (s : State) (code : FaultCode) (info : Word) : (s.raise code info).trace = s.trace := rfl

/-! ### requestHook -/

@[simp] theorem State.requestHook_params (s : State) (kind : Hook) : (s.requestHook kind).params = s.params := rfl
@[simp] theorem State.requestHook_inbox (s : State) (kind : Hook) : (s.requestHook kind).inbox = s.inbox := rfl
@[simp] theorem State.requestHook_samples (s : State) (kind : Hook) : (s.requestHook kind).samples = s.samples := rfl
@[simp] theorem State.requestHook_free (s : State) (kind : Hook) : (s.requestHook kind).free = s.free := rfl
@[simp] theorem State.requestHook_cw (s : State) (kind : Hook) : (s.requestHook kind).cw = s.cw := rfl
@[simp] theorem State.requestHook_opa (s : State) (kind : Hook) : (s.requestHook kind).opa = s.opa := rfl
@[simp] theorem State.requestHook_opb (s : State) (kind : Hook) : (s.requestHook kind).opb = s.opb := rfl
@[simp] theorem State.requestHook_opc (s : State) (kind : Hook) : (s.requestHook kind).opc = s.opc := rfl
@[simp] theorem State.requestHook_res (s : State) (kind : Hook) : (s.requestHook kind).res = s.res := rfl
@[simp] theorem State.requestHook_mode (s : State) (kind : Hook) : (s.requestHook kind).mode = s.mode := rfl
@[simp] theorem State.requestHook_hook (s : State) (kind : Hook) : (s.requestHook kind).hook = kind := rfl
@[simp] theorem State.requestHook_phase (s : State) (kind : Hook) : (s.requestHook kind).phase = s.phase := rfl
@[simp] theorem State.requestHook_faultCode (s : State) (kind : Hook) : (s.requestHook kind).faultCode = s.faultCode := rfl
@[simp] theorem State.requestHook_faultInfo (s : State) (kind : Hook) : (s.requestHook kind).faultInfo = s.faultInfo := rfl
@[simp] theorem State.requestHook_ctrl (s : State) (kind : Hook) : (s.requestHook kind).ctrl = s.ctrl := rfl
@[simp] theorem State.requestHook_clk1 (s : State) (kind : Hook) : (s.requestHook kind).clk1 = s.clk1 := rfl
@[simp] theorem State.requestHook_clk2 (s : State) (kind : Hook) : (s.requestHook kind).clk2 = s.clk2 := rfl
@[simp] theorem State.requestHook_inputs (s : State) (kind : Hook) : (s.requestHook kind).inputs = s.inputs := rfl
@[simp] theorem State.requestHook_pots (s : State) (kind : Hook) : (s.requestHook kind).pots = s.pots := rfl
@[simp] theorem State.requestHook_switches (s : State) (kind : Hook) : (s.requestHook kind).switches = s.switches := rfl
@[simp] theorem State.requestHook_outputs (s : State) (kind : Hook) : (s.requestHook kind).outputs = s.outputs := rfl
@[simp] theorem State.requestHook_pins (s : State) (kind : Hook) : (s.requestHook kind).pins = s.pins := rfl
@[simp] theorem State.requestHook_trace (s : State) (kind : Hook) : (s.requestHook kind).trace = s.trace := rfl

/-! ### returnHook -/

@[simp] theorem State.returnHook_params (s : State) : (s.returnHook).params = s.params := rfl
@[simp] theorem State.returnHook_inbox (s : State) : (s.returnHook).inbox = s.inbox := rfl
@[simp] theorem State.returnHook_samples (s : State) : (s.returnHook).samples = s.samples := rfl
@[simp] theorem State.returnHook_free (s : State) : (s.returnHook).free = s.free := rfl
@[simp] theorem State.returnHook_cw (s : State) : (s.returnHook).cw = s.cw := rfl
@[simp] theorem State.returnHook_opa (s : State) : (s.returnHook).opa = s.opa := rfl
@[simp] theorem State.returnHook_opb (s : State) : (s.returnHook).opb = s.opb := rfl
@[simp] theorem State.returnHook_opc (s : State) : (s.returnHook).opc = s.opc := rfl
@[simp] theorem State.returnHook_res (s : State) : (s.returnHook).res = s.res := rfl
@[simp] theorem State.returnHook_mode (s : State) : (s.returnHook).mode = s.mode := rfl
@[simp] theorem State.returnHook_hook (s : State) : (s.returnHook).hook = .none := rfl
@[simp] theorem State.returnHook_phase (s : State) : (s.returnHook).phase = s.phase := rfl
@[simp] theorem State.returnHook_faultCode (s : State) : (s.returnHook).faultCode = s.faultCode := rfl
@[simp] theorem State.returnHook_faultInfo (s : State) : (s.returnHook).faultInfo = s.faultInfo := rfl
@[simp] theorem State.returnHook_ctrl (s : State) : (s.returnHook).ctrl = s.ctrl := rfl
@[simp] theorem State.returnHook_clk1 (s : State) : (s.returnHook).clk1 = s.clk1 := rfl
@[simp] theorem State.returnHook_clk2 (s : State) : (s.returnHook).clk2 = s.clk2 := rfl
@[simp] theorem State.returnHook_inputs (s : State) : (s.returnHook).inputs = s.inputs := rfl
@[simp] theorem State.returnHook_pots (s : State) : (s.returnHook).pots = s.pots := rfl
@[simp] theorem State.returnHook_switches (s : State) : (s.returnHook).switches = s.switches := rfl
@[simp] theorem State.returnHook_outputs (s : State) : (s.returnHook).outputs = s.outputs := rfl
@[simp] theorem State.returnHook_pins (s : State) : (s.returnHook).pins = s.pins := rfl
@[simp] theorem State.returnHook_trace (s : State) : (s.returnHook).trace = s.trace := rfl

/-! ### setBank -/

@[simp] theorem State.setBank_params (s : State) (b : Bank) (l : List Channel) : (s.setBank b l).params = s.params := by cases b <;> rfl
@[simp] theorem State.setBank_inbox (s : State) (b : Bank) (l : List Channel) : (s.setBank b l).inbox = s.inbox := by cases b <;> rfl
@[simp] theorem State.setBank_samples (s : State) (b : Bank) (l : List Channel) : (s.setBank b l).samples = s.samples := by cases b <;> rfl
@[simp] theorem State.setBank_free (s : State) (b : Bank) (l : List Channel) : (s.setBank b l).free = s.free := by cases b <;> rfl
@[simp] theorem State.setBank_cw (s : State) (b : Bank) (l : List Channel) : (s.setBank b l).cw = s.cw := by cases b <;> rfl
@[simp] theorem State.setBank_opa (s : State) (b : Bank) (l : List Channel) : (s.setBank b l).opa = s.opa := by cases b <;> rfl
@[simp] theorem State.setBank_opb (s : State) (b : Bank) (l : List Channel) : (s.setBank b l).opb = s.opb := by cases b <;> rfl
@[simp] theorem State.setBank_opc (s : State) (b : Bank) (l : List Channel) : (s.setBank b l).opc = s.opc := by cases b <;> rfl
@[simp] theorem State.setBank_res (s : State) (b : Bank) (l : List Channel) : (s.setBank b l).res = s.res := by cases b <;> rfl
@[simp] theorem State.setBank_mode (s : State) (b : Bank) (l : List Channel) : (s.setBank b l).mode = s.mode := by cases b <;> rfl
@[simp] theorem State.setBank_hook (s : State) (b : Bank) (l : List Channel) : (s.setBank b l).hook = s.hook := by cases b <;> rfl
@[simp] theorem State.setBank_phase (s : State) (b : Bank) (l : List Channel) : (s.setBank b l).phase = s.phase := by cases b <;> rfl
@[simp] theorem State.setBank_faultCode (s : State) (b : Bank) (l : List Channel) : (s.setBank b l).faultCode = s.faultCode := by cases b <;> rfl
@[simp] theorem State.setBank_faultInfo (s : State) (b : Bank) (l : List Channel) : (s.setBank b l).faultInfo = s.faultInfo := by cases b <;> rfl
@[simp] theorem State.setBank_ctrl (s : State) (b : Bank) (l : List Channel) : (s.setBank b l).ctrl = s.ctrl := by cases b <;> rfl
@[simp] theorem State.setBank_clk1 (s : State) (b : Bank) (l : List Channel) : (s.setBank b l).clk1 = s.clk1 := by cases b <;> rfl
@[simp] theorem State.setBank_clk2 (s : State) (b : Bank) (l : List Channel) : (s.setBank b l).clk2 = s.clk2 := by cases b <;> rfl
@[simp] theorem State.setBank_inputs_inputs (s : State) (l : List Channel) : (s.setBank .inputs l).inputs = l := rfl
@[simp] theorem State.setBank_pots_inputs (s : State) (l : List Channel) : (s.setBank .pots l).inputs = s.inputs := rfl
@[simp] theorem State.setBank_switches_inputs (s : State) (l : List Channel) : (s.setBank .switches l).inputs = s.inputs := rfl
@[simp] theorem State.setBank_inputs_pots (s : State) (l : List Channel) : (s.setBank .inputs l).pots = s.pots := rfl
@[simp] theorem State.setBank_pots_pots (s : State) (l : List Channel) : (s.setBank .pots l).pots = l := rfl
@[simp] theorem State.setBank_switches_pots (s : State) (l : List Channel) : (s.setBank .switches l).pots = s.pots := rfl
@[simp] theorem State.setBank_inputs_switches (s : State) (l : List Channel) : (s.setBank .inputs l).switches = s.switches := rfl
@[simp] theorem State.setBank_pots_switches (s : State) (l : List Channel) : (s.setBank .pots l).switches = s.switches := rfl
@[simp] theorem State.setBank_switches_switches (s : State) (l : List Channel) : (s.setBank .switches l).switches = l := rfl
@[simp] theorem State.setBank_outputs (s : State) (b : Bank) (l : List Channel) : (s.setBank b l).outputs = s.outputs := by cases b <;> rfl
@[simp] theorem State.setBank_pins (s : State) (b : Bank) (l : List Channel) : (s.setBank b l).pins = s.pins := by cases b <;> rfl
@[simp] theorem State.setBank_trace (s : State) (b : Bank) (l : List Channel) : (s.setBank b l).trace = s.trace := by cases b <;> rfl

/-! ### setChan -/

@[simp] theorem State.setChan_params (s : State) (b : Bank) (c : Nat) (ch : Channel) : (s.setChan b c ch).params = s.params := by cases b <;> rfl
@[simp] theorem State.setChan_inbox (s : State) (b : Bank) (c : Nat) (ch : Channel) : (s.setChan b c ch).inbox = s.inbox := by cases b <;> rfl
@[simp] theorem State.setChan_samples (s : State) (b : Bank) (c : Nat) (ch : Channel) : (s.setChan b c ch).samples = s.samples := by cases b <;> rfl
@[simp] theorem State.setChan_free (s : State) (b : Bank) (c : Nat) (ch : Channel) : (s.setChan b c ch).free = s.free := by cases b <;> rfl
@[simp] theorem State.setChan_cw (s : State) (b : Bank) (c : Nat) (ch : Channel) : (s.setChan b c ch).cw = s.cw := by cases b <;> rfl
@[simp] theorem State.setChan_opa (s : State) (b : Bank) (c : Nat) (ch : Channel) : (s.setChan b c ch).opa = s.opa := by cases b <;> rfl
@[simp] theorem State.setChan_opb (s : State) (b : Bank) (c : Nat) (ch : Channel) : (s.setChan b c ch).opb = s.opb := by cases b <;> rfl
@[simp] theorem State.setChan_opc (s : State) (b : Bank) (c : Nat) (ch : Channel) : (s.setChan b c ch).opc = s.opc := by cases b <;> rfl
@[simp] theorem State.setChan_res (s : State) (b : Bank) (c : Nat) (ch : Channel) : (s.setChan b c ch).res = s.res := by cases b <;> rfl
@[simp] theorem State.setChan_mode (s : State) (b : Bank) (c : Nat) (ch : Channel) : (s.setChan b c ch).mode = s.mode := by cases b <;> rfl
@[simp] theorem State.setChan_hook (s : State) (b : Bank) (c : Nat) (ch : Channel) : (s.setChan b c ch).hook = s.hook := by cases b <;> rfl
@[simp] theorem State.setChan_phase (s : State) (b : Bank) (c : Nat) (ch : Channel) : (s.setChan b c ch).phase = s.phase := by cases b <;> rfl
@[simp] theorem State.setChan_faultCode (s : State) (b : Bank) (c : Nat) (ch : Channel) : (s.setChan b c ch).faultCode = s.faultCode := by cases b <;> rfl
@[simp] theorem State.setChan_faultInfo (s : State) (b : Bank) (c : Nat) (ch : Channel) : (s.setChan b c ch).faultInfo = s.faultInfo := by cases b <;> rfl
@[simp] theorem State.setChan_ctrl (s : State) (b : Bank) (c : Nat) (ch : Channel) : (s.setChan b c ch).ctrl = s.ctrl := by cases b <;> rfl
@[simp] theorem State.setChan_clk1 (s : State) (b : Bank) (c : Nat) (ch : Channel) : (s.setChan b c ch).clk1 = s.clk1 := by cases b <;> rfl
@[simp] theorem State.setChan_clk2 (s : State) (b : Bank) (c : Nat) (ch : Channel) : (s.setChan b c ch).clk2 = s.clk2 := by cases b <;> rfl
@[simp] theorem State.setChan_inputs_inputs (s : State) (c : Nat) (ch : Channel) : (s.setChan .inputs c ch).inputs = s.inputs.set c ch := rfl
@[simp] theorem State.setChan_pots_inputs (s : State) (c : Nat) (ch : Channel) : (s.setChan .pots c ch).inputs = s.inputs := rfl
@[simp] theorem State.setChan_switches_inputs (s : State) (c : Nat) (ch : Channel) : (s.setChan .switches c ch).inputs = s.inputs := rfl
@[simp] theorem State.setChan_inputs_pots (s : State) (c : Nat) (ch : Channel) : (s.setChan .inputs c ch).pots = s.pots := rfl
@[simp] theorem State.setChan_pots_pots (s : State) (c : Nat) (ch : Channel) : (s.setChan .pots c ch).pots = s.pots.set c ch := rfl
@[simp] theorem State.setChan_switches_pots (s : State) (c : Nat) (ch : Channel) : (s.setChan .switches c ch).pots = s.pots := rfl
@[simp] theorem State.setChan_inputs_switches (s : State) (c : Nat) (ch : Channel) : (s.setChan .inputs c ch).switches = s.switches := rfl
@[simp] theorem State.setChan_pots_switches (s : State) (c : Nat) (ch : Channel) : (s.setChan .pots c ch).switches = s.switches := rfl
@[simp] theorem State.setChan_switches_switches (s : State) (c : Nat) (ch : Channel) : (s.setChan .switches c ch).switches = s.switches.set c ch := rfl
@[simp] theorem State.setChan_outputs (s : State) (b : Bank) (c : Nat) (ch : Channel) : (s.setChan b c ch).outputs = s.outputs := by cases b <;> rfl
@[simp] theorem State.setChan_pins (s : State) (b : Bank) (c : Nat) (ch : Channel) : (s.setChan b c ch).pins = s.pins := by cases b <;> rfl
@[simp] theorem State.setChan_trace (s : State) (b : Bank) (c : Nat) (ch : Channel) : (s.setChan b c ch).trace = s.trace := by cases b <;> rfl

/-! ### setClock -/

@[simp] theorem State.setClock_params (s : State) (n : Bool) (c : Clock) : (s.setClock n c).params = s.params := by cases n <;> rfl
@[simp] theorem State.setClock_inbox (s : State) (n : Bool) (c : Clock) : (s.setClock n c).inbox = s.inbox := by cases n <;> rfl
@[simp] theorem State.setClock_samples (s : State) (n : Bool) (c : Clock) : (s.setClock n c).samples = s.samples := by cases n <;> rfl
@[simp] theorem State.setClock_free (s : State) (n : Bool) (c : Clock) : (s.setClock n c).free = s.free := by cases n <;> rfl
@[simp] theorem State.setClock_cw (s : State) (n : Bool) (c : Clock) : (s.setClock n c).cw = s.cw := by cases n <;> rfl
@[simp] theorem State.setClock_opa (s : State) (n : Bool) (c : Clock) : (s.setClock n c).opa = s.opa := by cases n <;> rfl
@[simp] theorem State.setClock_opb (s : State) (n : Bool) (c : Clock) : (s.setClock n c).opb = s.opb := by cases n <;> rfl
@[simp] theorem State.setClock_opc (s : State) (n : Bool) (c : Clock) : (s.setClock n c).opc = s.opc := by cases n <;> rfl
@[simp] theorem State.setClock_res (s : State) (n : Bool) (c : Clock) : (s.setClock n c).res = s.res := by cases n <;> rfl
@[simp] theorem State.setClock_mode (s : State) (n : Bool) (c : Clock) : (s.setClock n c).mode = s.mode := by cases n <;> rfl
@[simp] theorem State.setClock_hook (s : State) (n : Bool) (c : Clock) : (s.setClock n c).hook = s.hook := by cases n <;> rfl
@[simp] theorem State.setClock_phase (s : State) (n : Bool) (c : Clock) : (s.setClock n c).phase = s.phase := by cases n <;> rfl
@[simp] theorem State.setClock_faultCode (s : State) (n : Bool) (c : Clock) : (s.setClock n c).faultCode = s.faultCode := by cases n <;> rfl
@[simp] theorem State.setClock_faultInfo (s : State) (n : Bool) (c : Clock) : (s.setClock n c).faultInfo = s.faultInfo := by cases n <;> rfl
@[simp] theorem State.setClock_ctrl (s : State) (n : Bool) (c : Clock) : (s.setClock n c).ctrl = s.ctrl := by cases n <;> rfl
@[simp] theorem State.setClock_false_clk1 (s : State) (c : Clock) : (s.setClock false c).clk1 = c := rfl
@[simp] theorem State.setClock_true_clk1 (s : State) (c : Clock) : (s.setClock true c).clk1 = s.clk1 := rfl
@[simp] theorem State.setClock_false_clk2 (s : State) (c : Clock) : (s.setClock false c).clk2 = s.clk2 := rfl
@[simp] theorem State.setClock_true_clk2 (s : State) (c : Clock) : (s.setClock true c).clk2 = c := rfl
@[simp] theorem State.setClock_inputs (s : State) (n : Bool) (c : Clock) : (s.setClock n c).inputs = s.inputs := by cases n <;> rfl
@[simp] theorem State.setClock_pots (s : State) (n : Bool) (c : Clock) : (s.setClock n c).pots = s.pots := by cases n <;> rfl
@[simp] theorem State.setClock_switches (s : State) (n : Bool) (c : Clock) : (s.setClock n c).switches = s.switches := by cases n <;> rfl
@[simp] theorem State.setClock_outputs (s : State) (n : Bool) (c : Clock) : (s.setClock n c).outputs = s.outputs := by cases n <;> rfl
@[simp] theorem State.setClock_pins (s : State) (n : Bool) (c : Clock) : (s.setClock n c).pins = s.pins := by cases n <;> rfl
@[simp] theorem State.setClock_trace (s : State) (n : Bool) (c : Clock) : (s.setClock n c).trace = s.trace := by cases n <;> rfl

/-! ### The draws -/

@[simp] theorem State.afterSample_params (s : State) : s.afterSample.params = s.params := by unfold State.afterSample; split <;> rfl
@[simp] theorem State.afterSample_inbox (s : State) : s.afterSample.inbox = s.inbox := by unfold State.afterSample; split <;> rfl
@[simp] theorem State.afterSample_cw (s : State) : s.afterSample.cw = s.cw := by unfold State.afterSample; split <;> rfl
@[simp] theorem State.afterSample_opa (s : State) : s.afterSample.opa = s.opa := by unfold State.afterSample; split <;> rfl
@[simp] theorem State.afterSample_opb (s : State) : s.afterSample.opb = s.opb := by unfold State.afterSample; split <;> rfl
@[simp] theorem State.afterSample_opc (s : State) : s.afterSample.opc = s.opc := by unfold State.afterSample; split <;> rfl
@[simp] theorem State.afterSample_res (s : State) : s.afterSample.res = s.res := by unfold State.afterSample; split <;> rfl
@[simp] theorem State.afterSample_mode (s : State) : s.afterSample.mode = s.mode := by unfold State.afterSample; split <;> rfl
@[simp] theorem State.afterSample_hook (s : State) : s.afterSample.hook = s.hook := by unfold State.afterSample; split <;> rfl
@[simp] theorem State.afterSample_phase (s : State) : s.afterSample.phase = s.phase := by unfold State.afterSample; split <;> rfl
@[simp] theorem State.afterSample_faultCode (s : State) : s.afterSample.faultCode = s.faultCode := by unfold State.afterSample; split <;> rfl
@[simp] theorem State.afterSample_faultInfo (s : State) : s.afterSample.faultInfo = s.faultInfo := by unfold State.afterSample; split <;> rfl
@[simp] theorem State.afterSample_ctrl (s : State) : s.afterSample.ctrl = s.ctrl := by unfold State.afterSample; split <;> rfl
@[simp] theorem State.afterSample_clk1 (s : State) : s.afterSample.clk1 = s.clk1 := by unfold State.afterSample; split <;> rfl
@[simp] theorem State.afterSample_clk2 (s : State) : s.afterSample.clk2 = s.clk2 := by unfold State.afterSample; split <;> rfl
@[simp] theorem State.afterSample_inputs (s : State) : s.afterSample.inputs = s.inputs := by unfold State.afterSample; split <;> rfl
@[simp] theorem State.afterSample_pots (s : State) : s.afterSample.pots = s.pots := by unfold State.afterSample; split <;> rfl
@[simp] theorem State.afterSample_switches (s : State) : s.afterSample.switches = s.switches := by unfold State.afterSample; split <;> rfl
@[simp] theorem State.afterSample_outputs (s : State) : s.afterSample.outputs = s.outputs := by unfold State.afterSample; split <;> rfl
@[simp] theorem State.afterSample_pins (s : State) : s.afterSample.pins = s.pins := by unfold State.afterSample; split <;> rfl
@[simp] theorem State.afterSample_trace (s : State) : s.afterSample.trace = s.trace := by unfold State.afterSample; split <;> rfl

/-! ### Reading back banks and clocks -/

@[simp] theorem State.bank_inputs (s : State) : s.bank .inputs = s.inputs := rfl
@[simp] theorem State.bank_pots (s : State) : s.bank .pots = s.pots := rfl
@[simp] theorem State.bank_switches (s : State) : s.bank .switches = s.switches := rfl
@[simp] theorem State.clock_false (s : State) : s.clock false = s.clk1 := rfl
@[simp] theorem State.clock_true (s : State) : s.clock true = s.clk2 := rfl
@[simp] theorem State.bank_setBank_same (s : State) (b : Bank) (l : List Channel) : (s.setBank b l).bank b = l := by cases b <;> rfl
theorem State.bank_setBank_ne (s : State) {b b' : Bank} (l : List Channel) (h : b' ≠ b) : (s.setBank b l).bank b' = s.bank b' := by
  cases b <;> cases b' <;> first | exact absurd rfl h | rfl
@[simp] theorem State.bank_setChan_same (s : State) (b : Bank) (c : Nat) (ch : Channel) : (s.setChan b c ch).bank b = (s.bank b).set c ch := by
  cases b <;> rfl
theorem State.bank_setChan_ne (s : State) {b b' : Bank} (c : Nat) (ch : Channel) (h : b' ≠ b) : (s.setChan b c ch).bank b' = s.bank b' :=
  State.bank_setBank_ne s _ h
@[simp] theorem State.clock_setClock_same (s : State) (n : Bool) (c : Clock) : (s.setClock n c).clock n = c := by cases n <;> rfl
@[simp] theorem State.clock_setClock_other (s : State) (n : Bool) (c : Clock) : (s.setClock n c).clock (!n) = s.clock (!n) := by cases n <;> rfl
@[simp] theorem State.setRes_bank (s : State) (w : Word) (b : Bank) : (s.setRes w).bank b = s.bank b := by cases b <;> rfl
@[simp] theorem State.setRes_clock (s : State) (w : Word) (n : Bool) : (s.setRes w).clock n = s.clock n := by cases n <;> rfl
@[simp] theorem State.setMode_bank (s : State) (m : Mode) (b : Bank) : (s.setMode m).bank b = s.bank b := by cases b <;> rfl
@[simp] theorem State.setMode_clock (s : State) (m : Mode) (n : Bool) : (s.setMode m).clock n = s.clock n := by cases n <;> rfl
@[simp] theorem State.setHook_bank (s : State) (h : Hook) (b : Bank) : (s.setHook h).bank b = s.bank b := by cases b <;> rfl
@[simp] theorem State.setHook_clock (s : State) (h : Hook) (n : Bool) : (s.setHook h).clock n = s.clock n := by cases n <;> rfl
@[simp] theorem State.setPhase_bank (s : State) (p : Phase) (b : Bank) : (s.setPhase p).bank b = s.bank b := by cases b <;> rfl
@[simp] theorem State.setPhase_clock (s : State) (p : Phase) (n : Bool) : (s.setPhase p).clock n = s.clock n := by cases n <;> rfl
@[simp] theorem State.latch_bank (s : State) (c : Cmd) (b : Bank) : (s.latch c).bank b = s.bank b := by cases b <;> rfl
@[simp] theorem State.latch_clock (s : State) (c : Cmd) (n : Bool) : (s.latch c).clock n = s.clock n := by cases n <;> rfl
@[simp] theorem State.setFault_bank (s : State) (code : FaultCode) (info : Word) (b : Bank) : (s.setFault code info).bank b = s.bank b := by cases b <;> rfl
@[simp] theorem State.setFault_clock (s : State) (code : FaultCode) (info : Word) (n : Bool) : (s.setFault code info).clock n = s.clock n := by cases n <;> rfl
@[simp] theorem State.setCtrl_bank (s : State) (c : Ctrl) (b : Bank) : (s.setCtrl c).bank b = s.bank b := by cases b <;> rfl
@[simp] theorem State.setCtrl_clock (s : State) (c : Ctrl) (n : Bool) : (s.setCtrl c).clock n = s.clock n := by cases n <;> rfl
@[simp] theorem State.setOutput_bank (s : State) (o : Nat) (out : Output) (b : Bank) : (s.setOutput o out).bank b = s.bank b := by cases b <;> rfl
@[simp] theorem State.setOutput_clock (s : State) (o : Nat) (out : Output) (n : Bool) : (s.setOutput o out).clock n = s.clock n := by cases n <;> rfl
@[simp] theorem State.setPins_bank (s : State) (p : Pins) (b : Bank) : (s.setPins p).bank b = s.bank b := by cases b <;> rfl
@[simp] theorem State.setPins_clock (s : State) (p : Pins) (n : Bool) : (s.setPins p).clock n = s.clock n := by cases n <;> rfl
@[simp] theorem State.emit_bank (s : State) (e : BusEvent) (b : Bank) : (s.emit e).bank b = s.bank b := by cases b <;> rfl
@[simp] theorem State.emit_clock (s : State) (e : BusEvent) (n : Bool) : (s.emit e).clock n = s.clock n := by cases n <;> rfl
@[simp] theorem State.takeFree_bank (s : State) (n : Nat) (b : Bank) : (s.takeFree n).bank b = s.bank b := by cases b <;> rfl
@[simp] theorem State.takeFree_clock (s : State) (k : Nat) (n : Bool) : (s.takeFree k).clock n = s.clock n := by cases n <;> rfl
@[simp] theorem State.raise_bank (s : State) (code : FaultCode) (info : Word) (b : Bank) : (s.raise code info).bank b = s.bank b := by cases b <;> rfl
@[simp] theorem State.raise_clock (s : State) (code : FaultCode) (info : Word) (n : Bool) : (s.raise code info).clock n = s.clock n := by cases n <;> rfl
@[simp] theorem State.requestHook_bank (s : State) (kind : Hook) (b : Bank) : (s.requestHook kind).bank b = s.bank b := by cases b <;> rfl
@[simp] theorem State.requestHook_clock (s : State) (kind : Hook) (n : Bool) : (s.requestHook kind).clock n = s.clock n := by cases n <;> rfl
@[simp] theorem State.returnHook_bank (s : State) (b : Bank) : (s.returnHook).bank b = s.bank b := by cases b <;> rfl
@[simp] theorem State.returnHook_clock (s : State) (n : Bool) : (s.returnHook).clock n = s.clock n := by cases n <;> rfl
@[simp] theorem State.afterSample_bank (s : State) (b : Bank) : (s.afterSample).bank b = s.bank b := by cases b <;> simp [State.bank]
@[simp] theorem State.afterSample_clock (s : State) (n : Bool) : (s.afterSample).clock n = s.clock n := by cases n <;> simp [State.clock]
@[simp] theorem State.setClock_bank (s : State) (n : Bool) (c : Clock) (b : Bank) : (s.setClock n c).bank b = s.bank b := by cases n <;> cases b <;> rfl
@[simp] theorem State.setChan_clock (s : State) (b : Bank) (c : Nat) (ch : Channel) (n : Bool) : (s.setChan b c ch).clock n = s.clock n := by cases n <;> cases b <;> rfl

end Sys2Proof.Machine
end

