-- ==== Sys2Proof/Laws/Ops.lean ====
section
/-! SUPPORT. What each shared operation of Machine/Ops.lean can do: the checks on a host command, the draws, and
the register space. -/

namespace Sys2Proof.Machine

/-! ### Control -/

/-- A host command in HALTED only clears RES (60_exceptions.md R220). -/
theorem State.hostCommand_halted {s : State} {allowed : Bool} {rule : State → State} (h : s.mode = .halted) :
    s.hostCommand allowed rule = .next (s.setRes 0) := by simp [State.hostCommand, h]

/-- A host command that is allowed runs its rule (60_exceptions.md R218). -/
theorem State.hostCommand_allowed {s : State} {rule : State → State} (h : s.mode ≠ .halted) :
    s.hostCommand true rule = .next (rule s) := by simp [State.hostCommand, h]

/-- A host command out of phase raises BAD_PHASE (60_exceptions.md R218). -/
theorem State.hostCommand_badPhase {s : State} {rule : State → State} (h : s.mode ≠ .halted) :
    s.hostCommand false rule = .next (s.raise .badPhase s.cw) := by simp [State.hostCommand, h]

/-- All that a host command can do. -/
theorem State.hostCommand_cases {s t : State} {allowed : Bool} {rule : State → State}
    (h : s.hostCommand allowed rule = .next t) :
    (s.mode = .halted ∧ t = s.setRes 0) ∨ (s.mode ≠ .halted ∧ allowed = true ∧ t = rule s) ∨
      (s.mode ≠ .halted ∧ allowed = false ∧ t = s.raise .badPhase s.cw) := by
  unfold State.hostCommand at h
  by_cases hm : s.mode = .halted
  · simp [hm] at h; simp [hm, h]
  · cases allowed <;> simp [hm] at h <;> simp [hm, h]

theorem State.unlessHalted_halted {s : State} {rest : State → State} (h : s.mode = .halted) :
    s.unlessHalted rest = s := by simp [State.unlessHalted, h]

theorem State.unlessHalted_running {s : State} {rest : State → State} (h : s.mode ≠ .halted) :
    s.unlessHalted rest = rest s := by simp [State.unlessHalted, h]

theorem State.unlessHooked_hooked {s : State} {rest : State → State} (h : s.hook ≠ .none) :
    s.unlessHooked rest = s := by simp [State.unlessHooked, h]

theorem State.unlessHooked_none {s : State} {rest : State → State} (h : s.hook = .none) :
    s.unlessHooked rest = rest s := by simp [State.unlessHooked, h]

/-! ### Draws -/

/-- A draw is in [0, ADC_MAX] (10_state.md R37). -/
theorem State.sample_le (s : State) : s.sample ≤ adcMax s.params := by
  unfold State.sample adcMax
  exact Nat.le_sub_one_of_lt (Nat.mod_lt _ (Nat.two_pow_pos _))

/-- A draw with a listed sample takes its low ADC_BITS bits. -/
theorem State.sample_cons {s : State} {x : BitVec 24} {rest : List (BitVec 24)} (h : s.samples = x :: rest) :
    s.sample = x.toNat % 2 ^ adcBits s.params := by simp [State.sample, h]

theorem State.afterSample_cons {s : State} {x : BitVec 24} {rest : List (BitVec 24)} (h : s.samples = x :: rest) :
    s.afterSample = { s with samples := rest } := by simp [State.afterSample, h]

theorem State.afterSample_nil {s : State} (h : s.samples = []) : s.afterSample = s.takeFree 1 := by
  simp [State.afterSample, h]

/-! ### The register space -/

theorem bankOfPage_bankCode (b : Bank) : bankOfPage (bankCode b) = some b := by cases b <;> rfl

theorem bankOfPage_eq_some {n : Nat} {b : Bank} (h : bankOfPage n = some b) : n = bankCode b := by
  unfold bankOfPage at h
  split at h <;> simp_all [bankCode] <;> subst h <;> rfl

theorem bankOfPage_eq_none {n : Nat} : bankOfPage n = none ↔ n ≠ 1 ∧ n ≠ 2 ∧ n ≠ 3 := by
  unfold bankOfPage
  split <;> simp_all

theorem chanRegOfOffset_offset (r : ChanReg) : chanRegOfOffset (chanRegOffset r) = some r := by cases r <;> rfl

theorem chanRegOfOffset_eq_some {k : Nat} {r : ChanReg} (h : chanRegOfOffset k = some r) :
    k = chanRegOffset r := by
  unfold chanRegOfOffset at h
  split at h <;> simp_all [chanRegOffset] <;> subst h <;> rfl

theorem chanRegOffset_lt (r : ChanReg) : chanRegOffset r < 7 := by cases r <;> decide

theorem bankCode_pos (b : Bank) : 1 ≤ bankCode b ∧ bankCode b ≤ 3 := by cases b <;> decide

theorem bankCode_inj {b b' : Bank} (h : bankCode b = bankCode b') : b = b' := by
  cases b <;> cases b' <;> first | rfl | cases h

/-- Above the block registers the page names the bank, or the address is an output's (20_memory.md R47). -/
theorem regOfAddr_of_ge {a : Nat} (h : 8 ≤ a) :
    regOfAddr a =
      (match bankOfPage (a / 256) with
      | some b => (chanRegOfOffset (a % 8)).map (.chan b (a % 256 / 8))
      | none =>
        if 1024 ≤ a ∧ a < 1088 then some (.out ((a - 1024) / 2) (if a % 2 = 0 then .octl else .desired))
        else none) := by
  unfold regOfAddr
  split <;> first | omega | rfl

/-- A mapped address is one of the register's, and the machine has the register. -/
theorem State.regAt_eq_some {s : State} {a : Addr} {r : Reg} :
    s.regAt a = some r ↔ regOfAddr a.toNat = some r ∧ s.hasReg r = true := by
  unfold State.regAt
  split
  · rename_i r' h
    by_cases hr : s.hasReg r' = true
    · simp [hr, h]; intro e; subst e; exact hr
    · simp [hr, h]; intro e; subst e; simpa using hr
  · rename_i h; simp [h]

theorem State.readAt_of_regAt {s : State} {a : Addr} {r : Reg} (h : s.regAt a = some r) :
    s.readAt a = some (s.readReg r) := by simp [State.readAt, h]

theorem State.readAt_of_unmapped {s : State} {a : Addr} (h : s.regAt a = none) : s.readAt a = none := by
  simp [State.readAt, h]

end Sys2Proof.Machine
end

