-- ==== Sys2Proof/Laws/Cycle.lean ====
section
/-! SUPPORT. What the parts of a cycle can do: conditioning a channel and a bank, a detector, committing an output
and all outputs. -/

namespace Sys2Proof.Machine

/-- Induction along a loop over 0, …, n − 1. -/
theorem foldl_range_induct {α : Type} (P : Nat → α → Prop) (f : α → Nat → α) (s : α) (h0 : P 0 s) :
    ∀ n, (∀ k t, k < n → P k t → P (k + 1) (f t k)) → P n ((List.range n).foldl f s)
  | 0, _ => h0
  | n + 1, hs => by
    rw [List.range_succ, List.foldl_append]
    exact hs n _ (Nat.lt_succ_self n)
      (foldl_range_induct P f s h0 n (fun k t hk => hs k t (Nat.lt_succ_of_lt hk)))

/-! ### Values -/

theorem s32_w32 {x : Int} (h : fits32 x = true) : s32 (w32 x) = x := by
  simp only [fits32, Bool.and_eq_true, decide_eq_true_eq] at h
  simp only [s32, w32, BitVec.toInt_ofInt]
  rw [Int.bmod_eq_of_le] <;> omega

theorem convExact_nonneg (p : Params) (smp r1 r2 : Nat) : 0 ≤ convExact p smp r1 r2 := by
  unfold convExact floorDiv
  split <;> positivity

theorem conv_eq_ok {p : Params} {smp r1 r2 : Nat} {w : Word} :
    conv p smp r1 r2 = .ok w ↔
      (r1 = 0 ∨ r2 ≠ 0) ∧ fits32 (convExact p smp r1 r2) = true ∧ w32 (convExact p smp r1 r2) = w := by
  unfold conv
  split
  · rename_i h; simp [h.1, h.2]
  · rename_i h
    have : r1 = 0 ∨ r2 ≠ 0 := by omega
    split <;> simp_all

theorem conv_eq_error {p : Params} {smp r1 r2 : Nat} {code : FaultCode} :
    conv p smp r1 r2 = .error code ↔
      (r1 ≠ 0 ∧ r2 = 0 ∧ .divZero = code) ∨
        ((r1 = 0 ∨ r2 ≠ 0) ∧ fits32 (convExact p smp r1 r2) = false ∧ .range = code) := by
  unfold conv
  split
  · rename_i h; simp [h.1, h.2]
  · rename_i h
    have : r1 = 0 ∨ r2 ≠ 0 := by omega
    split <;> simp_all

/-- A conditioned reading is never negative (41_signal_conditioner.md R120). -/
theorem conv_nonneg {p : Params} {smp r1 r2 : Nat} {w : Word} (h : conv p smp r1 r2 = .ok w) : 0 ≤ s32 w := by
  obtain ⟨-, hf, rfl⟩ := conv_eq_ok.1 h
  rw [s32_w32 hf]
  exact convExact_nonneg p smp r1 r2

theorem s32_bounds (w : Word) : -2147483648 ≤ s32 w ∧ s32 w ≤ 2147483647 := by
  have h1 := BitVec.le_toInt w
  have h2 := BitVec.toInt_lt (x := w)
  simp only [s32]; omega

/-- The mean of eight words fits a word (41_signal_conditioner.md R123). -/
theorem s32_histMean (h : Hist) : s32 (histMean h) = histSum h / 8 := by
  have b0 := s32_bounds h.h0
  have b1 := s32_bounds h.h1
  have b2 := s32_bounds h.h2
  have b3 := s32_bounds h.h3
  have b4 := s32_bounds h.h4
  have b5 := s32_bounds h.h5
  have b6 := s32_bounds h.h6
  have b7 := s32_bounds h.h7
  unfold histMean floorDiv
  apply s32_w32
  have hs : -17179869184 ≤ histSum h ∧ histSum h ≤ 17179869176 := by unfold histSum; omega
  simp only [fits32, Bool.and_eq_true, decide_eq_true_eq]
  omega

theorem histNonneg_push {h : Hist} {mv : Word} (hh : histNonneg h) (hm : 0 ≤ s32 mv) :
    histNonneg (histPush h mv) := by
  obtain ⟨-, h1, h2, h3, h4, h5, h6, h7⟩ := hh
  exact ⟨h1, h2, h3, h4, h5, h6, h7, hm⟩

theorem histMean_nonneg {h : Hist} (hh : histNonneg h) : 0 ≤ s32 (histMean h) := by
  obtain ⟨h0, h1, h2, h3, h4, h5, h6, h7⟩ := hh
  rw [s32_histMean]
  simp only [histSum]
  omega

theorem smoothedValue_nonneg {ch : Channel} {mv : Word} (hh : histNonneg ch.hist) (hm : 0 ≤ s32 mv) :
    0 ≤ s32 (smoothedValue ch mv) := by
  unfold smoothedValue
  split
  · exact histMean_nonneg (histNonneg_push hh hm)
  · exact hm

theorem threshVal_bool (mv cut : Word) : threshVal mv cut = 0 ∨ threshVal mv cut = 1 := by
  unfold threshVal boolWord; split <;> simp

/-- pct's integer is in [0, 100] (41_signal_conditioner.md R127, R129). -/
theorem pctExact_range (mv : Int) (vmax tol : Nat) (rev : Bool) :
    0 ≤ pctExact mv vmax tol rev ∧ pctExact mv vmax tol rev ≤ 100 := by
  unfold pctExact
  have hp : 0 ≤ clamp (floorDiv (mv * 100) vmax) 0 100 ∧ clamp (floorDiv (mv * 100) vmax) 0 100 ≤ 100 := by
    unfold clamp; split
    · simp
    · split <;> omega
  generalize clamp (floorDiv (mv * 100) vmax) 0 100 = p at hp
  have hq : 0 ≤ p - floorMod p tol ∧ p - floorMod p tol ≤ 100 := by
    unfold floorMod floorDiv
    have h1 : (0 : Int) ≤ tol := Int.natCast_nonneg tol
    have h2 : (tol : Int) * (p / tol) ≤ p := by
      rcases h1.lt_or_eq with h1 | h1
      · exact Int.mul_ediv_self_le h1.ne'
      · rw [← h1]; simpa using hp.1
    have h3 : 0 ≤ (tol : Int) * (p / tol) := Int.mul_nonneg h1 (Int.ediv_nonneg hp.1 h1)
    omega
  simp only
  split <;> omega

theorem s32_pct {mv vmax tol : Word} {rev : Bool} {w : Word} (h : pct mv vmax tol rev = .ok w) :
    s32 w = pctExact (s32 mv) (u32 vmax) (u32 tol) rev := by
  unfold pct at h
  split at h
  · cases h
  · cases h
    apply s32_w32
    have := pctExact_range (s32 mv) (u32 vmax) (u32 tol) rev
    simp only [fits32, Bool.and_eq_true, decide_eq_true_eq]; omega

theorem pct_eq_error {mv vmax tol : Word} {rev : Bool} {code : FaultCode} (h : pct mv vmax tol rev = .error code) :
    (u32 vmax = 0 ∨ u32 tol = 0) ∧ code = .divZero := by
  unfold pct at h
  split at h
  · cases h; exact ⟨‹_›, rfl⟩
  · cases h

/-- What a channel publishes is in the range of its bank (10_state.md R34). -/
theorem publishValue_inRange {b : Bank} {ch : Channel} {v w : Word} {h : Hist}
    (hp : publishValue b ch v = .ok w) (hv : 0 ≤ s32 v) :
    readingInRange b { ch with hist := h, reading := w } := by
  cases b
  · simp only [publishValue, Except.ok.injEq] at hp
    simp only [readingInRange]
    split <;> simp_all
    subst hp; exact threshVal_bool _ _
  · have := s32_pct (w := w) (by simpa [publishValue] using hp)
    have hr := pctExact_range (s32 v) (u32 ch.vmax) (u32 ch.tol) ch.rev
    simp only [readingInRange]; omega
  · simp only [publishValue, Except.ok.injEq] at hp
    subst hp; exact threshVal_bool _ _

theorem publishValue_error {b : Bank} {ch : Channel} {v : Word} {code : FaultCode}
    (hp : publishValue b ch v = .error code) :
    b = .pots ∧ (u32 ch.vmax = 0 ∨ u32 ch.tol = 0) ∧ code = .divZero := by
  cases b
  · simp [publishValue] at hp
  · exact ⟨rfl, pct_eq_error (by simpa [publishValue] using hp)⟩
  · simp [publishValue] at hp

/-! ### Conditioning a channel -/

@[simp] theorem smoothChan_of_some {s : State} {b : Bank} {c : Nat} {ch : Channel} (mv : Word)
    (h : (s.bank b)[c]? = some ch) :
    smoothChan b c mv s = s.setChan b c { ch with hist := histPush ch.hist mv } := by simp [smoothChan, h]

@[simp] theorem publishReading_of_some {s : State} {b : Bank} {c : Nat} {ch : Channel} (v : Word)
    (h : (s.bank b)[c]? = some ch) :
    publishReading b c v s = s.setChan b c { ch with reading := v } := by simp [publishReading, h]

@[simp] theorem State.setChan_setChan (s : State) (b : Bank) (c : Nat) (x y : Channel) :
    (s.setChan b c x).setChan b c y = s.setChan b c y := by
  cases b <;> simp [State.setChan, State.setBank, State.bank]

theorem State.setChan_self {s : State} {b : Bank} {c : Nat} {ch : Channel} (h : (s.bank b)[c]? = some ch) :
    s.setChan b c ch = s := by
  obtain ⟨hc, rfl⟩ := List.getElem?_eq_some_iff.1 h
  cases b <;> simp [State.setChan, State.setBank, State.bank]

/-- Conditioning a channel where nothing is raised (41_signal_conditioner.md R131). -/
theorem condChan_of_conditioned {s : State} {b : Bank} {c : Nat} {ch ch' : Channel}
    (h : (s.bank b)[c]? = some ch) (hc : conditioned s.params b s.sample ch = some ch') :
    condChan b c s = s.afterSample.setChan b c ch' := by
  have ha : (s.afterSample.bank b)[c]? = some ch := by simpa using h
  have hlt : c < (s.bank b).length := (List.getElem?_eq_some_iff.1 h).1
  unfold conditioned at hc
  unfold condChan
  rw [h]
  cases hmv : conv s.params s.sample (u32 ch.r1) (u32 ch.r2) with
  | error code => simp [hmv] at hc
  | ok mv =>
    cases hv : publishValue b ch (smoothedValue ch mv) with
    | error code => simp [hmv, hv] at hc
    | ok v =>
      simp only [hmv, hv] at hc ⊢
      cases hc
      by_cases hs : ch.smooth = true
      · simp only [hs, if_true]
        rw [smoothChan_of_some mv ha, publishReading_of_some v
          (ch := { ch with hist := histPush ch.hist mv }) (by simp [hlt])]
        simp [hs]
      · simp only [Bool.not_eq_true] at hs
        simp only [hs]
        rw [if_neg (by simp), publishReading_of_some v ha]
        simp [hs]

/-- Conditioning a channel where something is raised (41_signal_conditioner.md R131, 60_exceptions.md R221): the
history alone may have been written, and that only where pct divides by zero. -/
theorem condChan_of_raised {s : State} {b : Bank} {c : Nat} {ch : Channel}
    (h : (s.bank b)[c]? = some ch) (hc : conditioned s.params b s.sample ch = none) :
    (∃ code, conv s.params s.sample (u32 ch.r1) (u32 ch.r2) = .error code ∧
      condChan b c s = s.afterSample.raise code (readingInfo b c)) ∨
    (b = .pots ∧ (u32 ch.vmax = 0 ∨ u32 ch.tol = 0) ∧ ∃ mv,
      conv s.params s.sample (u32 ch.r1) (u32 ch.r2) = .ok mv ∧
      condChan b c s = (s.afterSample.setChan b c
        { ch with hist := if ch.smooth then histPush ch.hist mv else ch.hist }).raise .divZero (readingInfo b c)) := by
  have ha : (s.afterSample.bank b)[c]? = some ch := by simpa using h
  unfold conditioned at hc
  unfold condChan
  rw [h]
  cases hmv : conv s.params s.sample (u32 ch.r1) (u32 ch.r2) with
  | error code => exact .inl ⟨code, rfl, by simp only [hmv]⟩
  | ok mv =>
    cases hv : publishValue b ch (smoothedValue ch mv) with
    | ok v => simp [hmv, hv] at hc
    | error code =>
      obtain ⟨rfl, hz, rfl⟩ := publishValue_error hv
      refine .inr ⟨rfl, hz, mv, rfl, ?_⟩
      simp only [hmv, hv]
      by_cases hs : ch.smooth = true
      · rw [if_pos hs, if_pos hs, smoothChan_of_some mv ha]
      · simp only [Bool.not_eq_true] at hs
        rw [if_neg (by simp [hs]), if_neg (by simp [hs])]
        exact congrArg (State.raise · .divZero _) (State.setChan_self ha).symm

theorem condChan_of_absent {s : State} {b : Bank} {c : Nat} (h : (s.bank b)[c]? = none) : condChan b c s = s := by
  simp [condChan, h]

/-- What is conditioned keeps its configuration. -/
theorem conditioned_config {p : Params} {b : Bank} {smp : Nat} {ch ch' : Channel}
    (h : conditioned p b smp ch = some ch') : ch'.configView = ch.configView := by
  unfold conditioned at h
  split at h
  · cases h
  · split at h
    · cases h
    · cases h; rfl

/-- What is conditioned has its reading in range, and no negative entry in its history (10_state.md R34). -/
theorem conditioned_ok {p : Params} {b : Bank} {smp : Nat} {ch ch' : Channel}
    (h : conditioned p b smp ch = some ch') (hh : histNonneg ch.hist) :
    readingInRange b ch' ∧ histNonneg ch'.hist := by
  unfold conditioned at h
  split at h
  · cases h
  · rename_i mv hmv
    have hm := conv_nonneg hmv
    split at h
    · cases h
    · rename_i v hv
      cases h
      refine ⟨publishValue_inRange hv (smoothedValue_nonneg hh hm), ?_⟩
      simp only
      split
      · exact histNonneg_push hh hm
      · exact hh

/-- In a configuration that START accepts nothing but RANGE is raised, by conv (41_signal_conditioner.md R120). -/
theorem conditioned_eq_none {p : Params} {b : Bank} {smp : Nat} {ch : Channel}
    (hd : dividerOk ch) (hp : b = .pots → u32 ch.vmax ≠ 0 ∧ u32 ch.tol ≠ 0)
    (h : conditioned p b smp ch = none) :
    conv p smp (u32 ch.r1) (u32 ch.r2) = .error .range ∧ 2147483647 < convExact p smp (u32 ch.r1) (u32 ch.r2) := by
  unfold conditioned at h
  split at h
  · rename_i code hc
    rcases conv_eq_error.1 hc with ⟨h1, h2, -⟩ | ⟨-, hf, rfl⟩
    · rcases hd with hd | hd <;> contradiction
    · refine ⟨hc, ?_⟩
      have := convExact_nonneg p smp (u32 ch.r1) (u32 ch.r2)
      simp only [fits32, Bool.and_eq_false_iff, decide_eq_false_iff_not] at hf
      omega
  · split at h
    · rename_i hv
      obtain ⟨hb, hz, -⟩ := publishValue_error hv
      have := hp hb
      omega
    · cases h

/-- Replacing an element by one of the same view keeps the list of views. -/
theorem map_set_of_eq {α β : Type} {l : List α} {k : Nat} {x y : α} (f : α → β) (hl : l[k]? = some x)
    (h : f y = f x) : (l.set k y).map f = l.map f := by
  obtain ⟨hlt, rfl⟩ := List.getElem?_eq_some_iff.1 hl
  rw [List.map_set, h]
  apply List.ext_getElem (by simp)
  intro i h1 h2
  simp only [List.getElem_set, List.getElem_map]
  split
  · subst_vars; rfl
  · rfl

/-- What U_COND leaves alone, whether it raises or not. -/
theorem condChan_frame (b : Bank) (c : Nat) (s : State) :
    condChan b c s = { s with
      inputs := (condChan b c s).inputs, pots := (condChan b c s).pots, switches := (condChan b c s).switches,
      samples := (condChan b c s).samples, free := (condChan b c s).free, res := (condChan b c s).res,
      mode := (condChan b c s).mode, faultCode := (condChan b c s).faultCode,
      faultInfo := (condChan b c s).faultInfo } := by
  have hs : ∀ u : State, u = s.afterSample ∨ (∃ ch', u = s.afterSample.setChan b c ch') →
      u = { s with inputs := u.inputs, pots := u.pots, switches := u.switches, samples := u.samples,
                   free := u.free, res := u.res, mode := u.mode, faultCode := u.faultCode,
                   faultInfo := u.faultInfo } := by
    have h0 : s.afterSample = { s with samples := s.afterSample.samples, free := s.afterSample.free } := by
      unfold State.afterSample; split <;> rfl
    rintro u (rfl | ⟨ch', rfl⟩)
    · rw [h0]
    · rw [h0]; cases b <;> rfl
  cases hc : (s.bank b)[c]? with
  | none => rw [condChan_of_absent hc]
  | some ch =>
    cases hd : conditioned s.params b s.sample ch with
    | some ch' => rw [condChan_of_conditioned hc hd]; exact hs _ (.inr ⟨ch', rfl⟩)
    | none =>
      rcases condChan_of_raised hc hd with ⟨code, -, e⟩ | ⟨-, -, mv, -, e⟩ <;> rw [e]
      · have := hs _ (.inl rfl)
        unfold State.raise State.setRes State.setMode State.setFault
        rw [this]
      · have := hs _ (.inr ⟨{ ch with hist := if ch.smooth then histPush ch.hist mv else ch.hist }, rfl⟩)
        unfold State.raise State.setRes State.setMode State.setFault
        rw [this]

/-! ### Conditioning a bank -/

/-- Induction along a conditioning phase: `P k t` after `k` channels, a raise leaving the rest alone. -/
theorem condBank_induct {b : Bank} {s : State} (P : Nat → State → Prop) (h0 : P 0 s)
    (hh : ∀ k t, t.mode = .halted → P k t → P (k + 1) t)
    (hs : ∀ k t, k < (s.bank b).length → t.mode ≠ .halted → P k t → P (k + 1) (condChan b k t)) :
    P (s.bank b).length (condBank b s) := by
  unfold condBank
  refine foldl_range_induct P _ s h0 _ (fun k t hk hP => ?_)
  by_cases h : t.mode = .halted
  · rw [State.unlessHalted_halted h]; exact hh k t h hP
  · rw [State.unlessHalted_running h]; exact hs k t hk h hP

/-! ### A detector -/

theorem detect_src (lv : Bool) (c : Clock) : (detect lv c).src = c.src := by
  unfold detect; split
  · rfl
  · split <;> rfl

/-- All that U_CLKDET can do (42_clock_edge_detector.md R138): it leaves the state, or takes one edge. -/
theorem clkdet_cases (second : Bool) (s : State) :
    clkdet second s = s ∨
    ((s.clock second).src.en = true ∧ ((s.clock second).level = false ∧
        clkdet second s = (s.setClock second { s.clock second with level := true, rise := true }).setHook
          (if heRise s.ctrl second then riseHook second else s.hook) ∨
      (s.clock second).level = true ∧
        clkdet second s = (s.setClock second { s.clock second with level := false, fall := true }).setHook
          (if heFall s.ctrl second then fallHook second else s.hook))) := by
  have hself : s.setClock second (s.clock second) = s := by cases second <;> rfl
  have hhook : ∀ c, (s.setClock second c).setHook s.hook = s.setClock second c := by intro c; cases second <;> rfl
  unfold clkdet
  by_cases he : (s.clock second).src.en = true
  · rw [if_neg (by simp [he])]
    generalize clockLevel s (s.clock second).src.idx = lv
    cases hl : (s.clock second).level <;> cases lv
    · left; simp [detect, edgeHook, hl, hself]
    · right; refine ⟨he, .inl ⟨rfl, ?_⟩⟩
      by_cases hr : heRise s.ctrl second = true
      · simp [detect, edgeHook, hl, hr, State.requestHook]
      · simp only [Bool.not_eq_true] at hr
        simp [detect, edgeHook, hl, hr, hhook]
    · right; refine ⟨he, .inr ⟨rfl, ?_⟩⟩
      by_cases hr : heFall s.ctrl second = true
      · simp [detect, edgeHook, hl, hr, State.requestHook]
      · simp only [Bool.not_eq_true] at hr
        simp [detect, edgeHook, hl, hr, hhook]
    · left; simp [detect, edgeHook, hl, hself]
  · left; rw [if_pos (by simpa using he)]

/-! ### Committing outputs -/

/-- Induction along a COMMIT phase: `P k t` after the outputs 0, …, k − 1. -/
theorem commitAll_induct {s : State} (P : Nat → State → Prop) (h0 : P 0 s)
    (hs : ∀ k t, k < s.outputs.length → P k t → P (k + 1) (commitOutput k t)) :
    P s.outputs.length (commitAll s) :=
  foldl_range_induct P (fun t o => commitOutput o t) s h0 _ hs

theorem rank_setOutput {s : State} {k o : Nat} {out out' : Output} (h : s.outputs[k]? = some out)
    (ha : out'.analog = out.analog) : rank (s.setOutput k out') o = rank s o := by
  unfold rank State.setOutput
  have : ∀ l : List Output, l[k]? = some out → (l.set k out').map (·.analog) = l.map (·.analog) := by
    intro l hl
    apply List.ext_getElem?
    intro i
    by_cases hi : i = k
    · subst hi
      obtain ⟨hlt, rfl⟩ := List.getElem?_eq_some_iff.1 hl
      simp [hlt, ha]
    · simp [Ne.symm hi]
  have hmap := congrArg (List.take o) (this s.outputs h)
  rw [← List.map_take, ← List.map_take] at hmap
  have hc := congrArg (List.countP id) hmap
  rw [List.countP_map, List.countP_map] at hc
  exact hc

/-- All that U_COMMIT can do (44_output_change_filter.md R174). -/
theorem commitOutput_cases {s : State} {o : Nat} {out : Output} (h : s.outputs[o]? = some out) :
    (out.committed = some out.desired ∧ commitOutput o s = s) ∨
    (out.committed ≠ some out.desired ∧ commitOutput o s = writeOutput o out s) := by
  unfold commitOutput
  rw [h]
  by_cases hc : out.committed = some out.desired
  · left; simp [hc]
  · right; simp [hc]

end Sys2Proof.Machine
end

