-- ==== Sys2Proof/Laws/Conditioning.lean ====
section
/-! SUPPORT. What the conditioning phases and the detectors do within one cycle: the draws in their order, a bank of a
validated configuration, the three phases together, and a detector on this cycle's readings. -/

namespace Sys2Proof.Machine
/-! ### Draws of a phase -/

theorem State.drawn_zero (s : State) : s.drawn 0 = s := by simp [State.drawn]

/-- A draw more (10_state.md R37). -/
theorem State.afterSample_drawn (s : State) (n : Nat) : (s.drawn n).afterSample = s.drawn (n + 1) := by
  unfold State.afterSample State.drawn
  cases h : s.samples.drop n with
  | nil =>
    have hl : s.samples.length ≤ n := by simpa using h
    simp [State.takeFree, show s.samples.drop (n + 1) = [] by simp; omega]
    omega
  | cons x rest =>
    have hl : n < s.samples.length := by
      by_contra hc; rw [List.drop_eq_nil_of_le (by omega)] at h; cases h
    have hr : s.samples.drop (n + 1) = rest := by
      rw [List.drop_eq_getElem_cons hl] at h; exact (List.cons.inj h).2
    simp only [hr]
    rw [show n - s.samples.length = 0 by omega, show n + 1 - s.samples.length = 0 by omega]

theorem State.sample_drawn (s : State) (n : Nat) : (s.drawn n).sample = drawAt s n := by
  unfold State.sample drawAt State.drawn
  cases h : s.samples.drop n with
  | nil =>
    rw [List.getElem?_eq_none (by simpa using h)]
  | cons x rest =>
    have : s.samples[n]? = some x := by rw [← List.head?_drop, h]; rfl
    rw [this]

theorem drawAt_drawn (s : State) (n m : Nat) : drawAt (s.drawn n) m = drawAt s (n + m) := by
  unfold drawAt State.drawn
  simp only [List.getElem?_drop, List.length_drop]
  cases h : s.samples[n + m]? with
  | some x => rfl
  | none =>
    have := List.getElem?_eq_none_iff.1 h
    rw [show s.free + (n - s.samples.length) + (m - (s.samples.length - n)) =
      s.free + (n + m - s.samples.length) by omega]

theorem drawAt_congr {s t : State} (h1 : t.samples = s.samples) (h2 : t.free = s.free) (h3 : t.params = s.params)
    (n : Nat) : drawAt t n = drawAt s n := by unfold drawAt; rw [h1, h2, h3]

/-! ### Conditioning a bank of a validated configuration -/

/-- `t` is `s` with the first `k` channels of bank `b` conditioned, each from its own draw (41_signal_conditioner.md
R132), and nothing else changed. -/
structure CondUpTo (b : Bank) (s : State) (k : Nat) (t : State) : Prop where
  rest : t = (s.drawn k).setBank b (t.bank b)
  length : (t.bank b).length = (s.bank b).length
  before : ∀ c ch, c < k → (s.bank b)[c]? = some ch →
    ∃ ch', conditioned s.params b (drawAt s c) ch = some ch' ∧ (t.bank b)[c]? = some ch'
  later : ∀ c, k ≤ c → (t.bank b)[c]? = (s.bank b)[c]?

theorem CondUpTo.refl (b : Bank) (s : State) : CondUpTo b s 0 s where
  rest := by rw [State.drawn_zero]; cases b <;> rfl
  length := rfl
  before := by intro c ch h; omega
  later := fun _ _ => rfl

/-- The next channel is conditioned from the next draw. -/
theorem CondUpTo.step {b : Bank} {s t : State} {k : Nat} {ch ch' : Channel} (h : CondUpTo b s k t)
    (hc : (s.bank b)[k]? = some ch) (hd : conditioned s.params b (drawAt s k) ch = some ch') :
    CondUpTo b s (k + 1) (condChan b k t) := by
  have hp : t.params = s.params := by rw [h.rest]; cases b <;> rfl
  have hs : t.sample = drawAt s k := by
    rw [← State.sample_drawn, h.rest]; cases b <;> rfl
  have htc : (t.bank b)[k]? = some ch := by rw [h.later k (Nat.le_refl k), hc]
  have hlt : k < (t.bank b).length := (List.getElem?_eq_some_iff.1 htc).1
  rw [condChan_of_conditioned htc (ch' := ch') (by rw [hp, hs]; exact hd)]
  have hb : (t.afterSample.setChan b k ch').bank b = (t.bank b).set k ch' := by simp
  have ha : t.afterSample = (s.drawn (k + 1)).setBank b (t.bank b) := by
    rw [← State.afterSample_drawn]
    conv_lhs => rw [h.rest]
    cases b <;> (unfold State.afterSample State.setBank; cases (s.drawn k).samples <;> rfl)
  refine ⟨?_, by rw [hb, List.length_set, h.length], ?_, ?_⟩
  · rw [hb]
    unfold State.setChan
    rw [ha]
    cases b <;> rfl
  · intro c x hck hx
    rw [hb]
    by_cases he : c = k
    · subst he
      rw [hc] at hx; cases hx
      exact ⟨ch', hd, by simp [hlt]⟩
    · rw [List.getElem?_set_ne (Ne.symm he)]
      exact h.before c x (by omega) hx
  · intro c hck
    rw [hb, List.getElem?_set_ne (by omega)]
    exact h.later c (by omega)

/-- All that a conditioning phase of a validated configuration can do (41_signal_conditioner.md R131, R132,
60_exceptions.md R221): every channel is conditioned, or the first whose conversion leaves 32 bits raises RANGE. -/
theorem condBank_cases {b : Bank} {s : State} (hm : s.mode ≠ .halted) (hd : ∀ ch ∈ s.bank b, dividerOk ch)
    (hp : b = .pots → ∀ ch ∈ s.bank b, u32 ch.vmax ≠ 0 ∧ u32 ch.tol ≠ 0) :
    CondUpTo b s (s.bank b).length (condBank b s) ∨
    ∃ c ch u, (s.bank b)[c]? = some ch ∧
      2147483647 < convExact s.params (drawAt s c) (u32 ch.r1) (u32 ch.r2) ∧ CondUpTo b s c u ∧
      condBank b s = u.afterSample.raise .range (readingInfo b c) := by
  refine condBank_induct (fun k t => CondUpTo b s k t ∨
    ∃ c ch u, (s.bank b)[c]? = some ch ∧
      2147483647 < convExact s.params (drawAt s c) (u32 ch.r1) (u32 ch.r2) ∧ CondUpTo b s c u ∧
      t = u.afterSample.raise .range (readingInfo b c)) (.inl (.refl b s)) ?_ ?_
  · rintro k t ht (h | h)
    · rw [h.rest] at ht; cases b <;> exact absurd ht hm
    · exact .inr h
  · rintro k t hk ht (h | ⟨c, ch, u, -, -, -, rfl⟩)
    · obtain ⟨ch, hc⟩ : ∃ ch, (s.bank b)[k]? = some ch := ⟨_, List.getElem?_eq_getElem hk⟩
      have hmem : ch ∈ s.bank b := List.mem_of_getElem? hc
      cases hcd : conditioned s.params b (drawAt s k) ch with
      | some ch' => exact .inl (h.step hc hcd)
      | none =>
        obtain ⟨hcv, hov⟩ := conditioned_eq_none (hd ch hmem) (fun hb => hp hb ch hmem) hcd
        have hpp : t.params = s.params := by rw [h.rest]; cases b <;> rfl
        have hs : t.sample = drawAt s k := by rw [← State.sample_drawn, h.rest]; cases b <;> rfl
        have htc : (t.bank b)[k]? = some ch := by rw [h.later k (Nat.le_refl k), hc]
        refine .inr ⟨k, ch, t, hc, hov, h, ?_⟩
        rcases condChan_of_raised htc (by rw [hpp, hs]; exact hcd) with ⟨code, hcode, e⟩ | ⟨hb, hz, -⟩
        · rw [hpp, hs, hcv] at hcode; cases hcode; exact e
        · have := hp hb ch hmem; omega
    · exact absurd rfl ht

/-! ### The conditioning phases of a cycle -/

/-- The phase in which the channels of a bank are conditioned (45_step_orchestrator.md R186). -/
def condPhase : Bank → Phase
  | .inputs => .condIn
  | .pots => .condPot
  | .switches => .condSw

/-- `t` is `s` in phase `p` of a cycle with the first `n` channels conditioned, in the order of 45_step_orchestrator.md
R186 and each from its own draw; but for the event bits nothing else has changed. -/
structure CycleUpTo (s : State) (n : Nat) (t : State) (p : Phase) : Prop where
  rest : t = { s.drawn n with
    phase := p
    clk1 := { s.clk1 with rise := false, fall := false }
    clk2 := { s.clk2 with rise := false, fall := false }
    inputs := t.inputs, pots := t.pots, switches := t.switches }
  length : ∀ b, (t.bank b).length = (s.bank b).length
  before : ∀ b c ch, drawIndex s b c < n → (s.bank b)[c]? = some ch →
    ∃ ch', conditioned s.params b (drawAt s (drawIndex s b c)) ch = some ch' ∧ (t.bank b)[c]? = some ch'
  later : ∀ b c, c < (s.bank b).length → n ≤ drawIndex s b c → (t.bank b)[c]? = (s.bank b)[c]?

theorem drawIndex_zero_add (s : State) (b : Bank) (c : Nat) : drawIndex s b 0 + c = drawIndex s b c := by
  cases b <;> simp [drawIndex]

/-- The draws of a cycle are in the order of banks and channels. -/
theorem drawIndex_lt {s : State} {b b' : Bank} {c c' : Nat} (hc' : c' < (s.bank b').length)
    (hc : c ≤ (s.bank b).length) :
    drawIndex s b' c' < drawIndex s b c ↔ bankCode b' < bankCode b ∨ b' = b ∧ c' < c := by
  cases b <;> cases b' <;> simp only [drawIndex, bankCode, State.bank] at * <;> simp <;> omega

/-- A phase of the cycle conditions the channels of its bank. -/
theorem CycleUpTo.bank {s u t : State} {b : Bank} {p : Phase} {k : Nat}
    (h : CycleUpTo s (drawIndex s b 0) u p) (hk : k ≤ (s.bank b).length)
    (ht : CondUpTo b (u.setPhase (condPhase b)) k t) : CycleUpTo s (drawIndex s b k) t (condPhase b) := by
  have hdraw : ∀ n, drawAt (u.setPhase (condPhase b)) n = drawAt s (drawIndex s b n) := by
    intro n
    rw [← drawIndex_zero_add, ← drawAt_drawn]
    refine drawAt_congr ?_ ?_ ?_ n <;> rw [h.rest] <;> rfl
  have hpar : (u.setPhase (condPhase b)).params = s.params := by rw [h.rest]; rfl
  have hother : ∀ b', b' ≠ b → t.bank b' = u.bank b' := by
    intro b' hb; rw [ht.rest]; cases b <;> cases b' <;> first | exact absurd rfl hb | rfl
  refine ⟨?_, ?_, ?_, ?_⟩
  · have e : (u.setPhase (condPhase b)).drawn k =
        { s.drawn (drawIndex s b k) with
          phase := condPhase b
          clk1 := { s.clk1 with rise := false, fall := false }
          clk2 := { s.clk2 with rise := false, fall := false }
          inputs := u.inputs, pots := u.pots, switches := u.switches } := by
      conv_lhs => rw [h.rest]
      rw [← drawIndex_zero_add s b k]
      generalize drawIndex s b 0 = m
      have hf : s.free + (m - s.samples.length) + (k - (s.samples.length - m)) =
        s.free + (m + k - s.samples.length) := by omega
      simp only [State.drawn, State.setPhase, List.drop_drop, List.length_drop, hf]
    have hr := ht.rest
    rw [e] at hr
    rw [hr]
    cases b <;> rfl
  · intro b'
    by_cases hb : b' = b
    · subst hb; rw [ht.length]; exact h.length b'
    · rw [hother b' hb]; exact h.length b'
  · intro b' c ch hlt hc
    have hcl : c < (s.bank b').length := (List.getElem?_eq_some_iff.1 hc).1
    by_cases hb : b' = b
    · subst hb
      have hcu : (u.bank b')[c]? = some ch := by
        rw [h.later b' c hcl (by rw [← drawIndex_zero_add s b' c]; omega), hc]
      have hck : c < k := by rw [← drawIndex_zero_add s b' c, ← drawIndex_zero_add s b' k] at hlt; omega
      have := ht.before c ch hck (by simpa using hcu)
      rwa [hpar, hdraw] at this
    · have hlt' : drawIndex s b' c < drawIndex s b 0 := by
        rw [drawIndex_lt hcl (Nat.zero_le _)]
        rcases (drawIndex_lt hcl hk).1 hlt with h | ⟨h, -⟩
        · exact .inl h
        · exact absurd h hb
      rw [hother b' hb]
      exact h.before b' c ch hlt' hc
  · intro b' c hcl hle
    by_cases hb : b' = b
    · subst hb
      have hck : k ≤ c := by rw [← drawIndex_zero_add s b' c, ← drawIndex_zero_add s b' k] at hle; omega
      rw [ht.later c hck]
      simpa using h.later b' c hcl (by rw [← drawIndex_zero_add s b' c]; omega)
    · rw [hother b' hb]
      refine h.later b' c hcl ?_
      by_contra hlt
      apply absurd hle
      rw [not_le, drawIndex_lt hcl hk]
      rcases (drawIndex_lt hcl (Nat.zero_le _)).1 (not_le.1 hlt) with h | ⟨h, -⟩
      · exact .inl h
      · exact absurd h hb

/-- A phase of a cycle of a validated configuration conditions its whole bank, or its first channel whose conversion
leaves 32 bits raises RANGE (41_signal_conditioner.md R131, 60_exceptions.md R221). -/
theorem CycleUpTo.phase {s u : State} {b : Bank} {p : Phase} (h : CycleUpTo s (drawIndex s b 0) u p)
    (hm : s.mode ≠ .halted) (hd : ∀ ch ∈ s.bank b, dividerOk ch)
    (hp : b = .pots → ∀ ch ∈ s.bank b, u32 ch.vmax ≠ 0 ∧ u32 ch.tol ≠ 0) :
    CycleUpTo s (drawIndex s b (s.bank b).length) (condBank b (u.setPhase (condPhase b))) (condPhase b) ∨
    ∃ c ch w, (s.bank b)[c]? = some ch ∧
      2147483647 < convExact s.params (drawAt s (drawIndex s b c)) (u32 ch.r1) (u32 ch.r2) ∧
      CycleUpTo s (drawIndex s b c) w (condPhase b) ∧
      condBank b (u.setPhase (condPhase b)) = w.afterSample.raise .range (readingInfo b c) := by
  have hbank : u.bank b = s.bank b := by
    apply List.ext_getElem?
    intro c
    by_cases hc : c < (s.bank b).length
    · exact h.later b c hc (by rw [← drawIndex_zero_add s b c]; omega)
    · rw [List.getElem?_eq_none (by rw [h.length]; omega), List.getElem?_eq_none (by omega)]
  have hmode : (u.setPhase (condPhase b)).mode ≠ .halted := by rw [h.rest]; exact hm
  have hvb : (u.setPhase (condPhase b)).bank b = s.bank b := by simp [hbank]
  have hpar : (u.setPhase (condPhase b)).params = s.params := by rw [h.rest]; rfl
  have hdraw : ∀ n, drawAt (u.setPhase (condPhase b)) n = drawAt s (drawIndex s b n) := by
    intro n
    rw [← drawIndex_zero_add, ← drawAt_drawn]
    refine drawAt_congr ?_ ?_ ?_ n <;> rw [h.rest] <;> rfl
  rcases condBank_cases hmode (by rw [hvb]; exact hd) (by rw [hvb]; exact hp) with hA | ⟨c, ch, w, hc, hov, hw, he⟩
  · rw [hvb] at hA
    exact .inl (h.bank (Nat.le_refl _) hA)
  · rw [hvb] at hc
    rw [hpar, hdraw] at hov
    exact .inr ⟨c, ch, w, hc, hov, h.bank (Nat.le_of_lt (List.getElem?_eq_some_iff.1 hc).1) hw, he⟩

/-- The cycle starts with the event bits cleared (45_step_orchestrator.md R187). -/
theorem CycleUpTo.start (s : State) (p : Phase) : CycleUpTo s 0 (clearEvents (s.setPhase p)) p where
  rest := by rw [State.drawn_zero]; rfl
  length b := by cases b <;> rfl
  before := by intro b c ch h; omega
  later b c _ _ := by cases b <;> rfl

/-- The conditioning phases of a cycle of a validated configuration (45_step_orchestrator.md R186): every channel is
conditioned from its own draw and the cycle goes on at CLK1, or the first channel whose conversion leaves 32 bits
raises RANGE (60_exceptions.md R221). -/
theorem seqCondIn_cases {s : State} (hm : s.mode ≠ .halted) (hd : ∀ b, ∀ ch ∈ s.bank b, dividerOk ch)
    (hp : ∀ ch ∈ s.pots, u32 ch.vmax ≠ 0 ∧ u32 ch.tol ≠ 0) :
    (∃ u, CycleUpTo s (s.inputs.length + s.pots.length + s.switches.length) u .condSw ∧
      seqCondIn s = seqClk1 u) ∨
    ∃ b c ch w, (s.bank b)[c]? = some ch ∧
      2147483647 < convExact s.params (drawAt s (drawIndex s b c)) (u32 ch.r1) (u32 ch.r2) ∧
      CycleUpTo s (drawIndex s b c) w (condPhase b) ∧
      seqCondIn s = w.afterSample.raise .range (readingInfo b c) := by
  have hp' : ∀ b, b = .pots → ∀ ch ∈ s.bank b, u32 ch.vmax ≠ 0 ∧ u32 ch.tol ≠ 0 := by rintro b rfl; exact hp
  have run : ∀ {n t p}, CycleUpTo s n t p → t.mode ≠ .halted := fun h => by rw [h.rest]; exact hm
  have h0 : CycleUpTo s (drawIndex s .inputs 0) (clearEvents (s.setPhase .condIn)) .condIn := .start s .condIn
  unfold seqCondIn
  rcases h0.phase hm (hd _) (hp' _) with h1 | ⟨c, ch, w, hc, hov, hw, he⟩
  swap
  · exact .inr ⟨.inputs, c, ch, w, hc, hov, hw, (by
      have he' : condBank .inputs (clearEvents (s.setPhase .condIn)) = _ := he
      rw [he', State.unlessHalted_halted rfl])⟩
  have h1' : CycleUpTo s (drawIndex s .pots 0) (condBank .inputs (clearEvents (s.setPhase .condIn))) .condIn := h1
  rw [State.unlessHalted_running (run h1')]
  unfold seqCondPot
  rcases h1'.phase hm (hd _) (hp' _) with h2 | ⟨c, ch, w, hc, hov, hw, he⟩
  swap
  · exact .inr ⟨.pots, c, ch, w, hc, hov, hw, (by
      have he' : condBank .pots ((condBank .inputs (clearEvents (s.setPhase .condIn))).setPhase .condPot) = _ := he
      rw [he', State.unlessHalted_halted rfl])⟩
  have h2' : CycleUpTo s (drawIndex s .switches 0)
    (condBank .pots ((condBank .inputs (clearEvents (s.setPhase .condIn))).setPhase .condPot)) .condPot := h2
  rw [State.unlessHalted_running (run h2')]
  unfold seqCondSw
  rcases h2'.phase hm (hd _) (hp' _) with h3 | ⟨c, ch, w, hc, hov, hw, he⟩
  swap
  · exact .inr ⟨.switches, c, ch, w, hc, hov, hw, (by
      have he' : condBank .switches ((condBank .pots ((condBank .inputs
        (clearEvents (s.setPhase .condIn))).setPhase .condPot)).setPhase .condSw) = _ := he
      rw [he', State.unlessHalted_halted rfl])⟩
  exact .inl ⟨_, h3, State.unlessHalted_running (run h3)⟩

/-! ### A detector of the cycle -/

/-- What U_CLKDET does in a cycle, its event bits having been cleared (42_clock_edge_detector.md R138, R139,
45_step_orchestrator.md R187): the detector takes the level of its source, and an event whose hook is enabled requests
that hook. -/
theorem clkdet_cycle {second : Bool} {s : State} {c : Clock}
    (hc : s.clock second = { c with rise := false, fall := false }) (hs : clockSrcOk s c) :
    clkdet second s = (s.setClock second (cycleClock s.inputs c)).setHook
      (if (cycleClock s.inputs c).rise = true ∧ heRise s.ctrl second = true then riseHook second
        else if (cycleClock s.inputs c).fall = true ∧ heFall s.ctrl second = true then fallHook second
        else s.hook) := by
  have hself : ∀ h : Hook, h = s.hook →
      (s.setClock second { c with rise := false, fall := false }).setHook h = s := by
    rintro h rfl; rw [← hc]; cases second <;> rfl
  have hkeep : ∀ x : Clock, (s.setClock second x).setHook s.hook = s.setClock second x := by
    intro x; cases second <;> rfl
  unfold clkdet
  rw [hc]
  by_cases he : c.src.en = true
  · rw [if_neg (by simp [he])]
    have hlt := hs he
    have hx : s.inputs[c.src.idx.toNat]? = some s.inputs[c.src.idx.toNat] := List.getElem?_eq_getElem hlt
    generalize s.inputs[c.src.idx.toNat] = ch at hx
    have hl : clockLevel s c.src.idx = decide (ch.reading ≠ 0) := by
      have h0 : s32 ch.reading = 0 ↔ ch.reading = 0 :=
        ⟨fun h => BitVec.eq_of_toInt_eq (by simpa [s32] using h), fun h => by rw [h]; rfl⟩
      unfold clockLevel; rw [hx]
      simp [h0]
    unfold cycleClock
    rw [hx]
    simp only [he, if_true, hl, detectCycle]
    generalize decide (ch.reading ≠ 0) = lv
    cases hlev : c.level <;> cases lv <;> simp [detect, edgeHook, hkeep]
    all_goals
      split <;> simp_all [State.requestHook]
  · have hcc : cycleClock s.inputs c = { c with rise := false, fall := false } := by
      unfold cycleClock
      split
      · rw [if_neg he]
      · rfl
    rw [if_pos (by simpa using he), hcc, hself _ (by simp)]

end Sys2Proof.Machine
end

