-- ==== Sys2Proof/Laws/Encoding.lean ====
section
/-! SUPPORT. The small lemmas of the encoding: the fields of a command word and of a frame, and what decoding a
word with a given opcode can answer. -/

namespace Sys2Proof

theorem getLsbD_fieldAt (m : Nat) {n : Nat} (x : BitVec n) (k i : Nat) :
    (fieldAt m x k).getLsbD i = (decide (i < m) && decide (k ≤ i) && x.getLsbD (i - k)) := by
  unfold fieldAt
  by_cases h : i < m <;> by_cases h' : k ≤ i <;> simp [h, h']

theorem getLsbD_bitAt (m : Nat) (b : Bool) (k i : Nat) :
    (bitAt m b k).getLsbD i = (decide (i < m) && decide (i = k) && b) := by
  unfold bitAt
  rw [getLsbD_fieldAt]
  by_cases h : i = k
  · subst h; simp
  · by_cases h' : k ≤ i
    · have : i - k ≠ 0 := by omega
      simp [h, this]
    · simp [h, h']

@[simp] theorem cwOpc_mkCw (o f : BitVec 8) (i : BitVec 16) : cwOpc (mkCw o f i) = o := by
  apply BitVec.eq_of_getLsbD_eq; intro k hk
  simp only [cwOpc, mkCw, BitVec.getLsbD_or, getLsbD_fieldAt, BitVec.getLsbD_extractLsb', hk]
  rw [BitVec.getLsbD_of_ge f (24 + k - 16) (by omega), BitVec.getLsbD_of_ge i (24 + k - 0) (by omega)]
  simp [show 24 + k < 32 by omega]

@[simp] theorem cwFlags_mkCw (o f : BitVec 8) (i : BitVec 16) : cwFlags (mkCw o f i) = f := by
  apply BitVec.eq_of_getLsbD_eq; intro k hk
  simp only [cwFlags, mkCw, BitVec.getLsbD_or, getLsbD_fieldAt, BitVec.getLsbD_extractLsb', hk]
  rw [BitVec.getLsbD_of_ge i (16 + k - 0) (by omega)]
  simp [show 16 + k < 32 by omega, show ¬ 24 ≤ 16 + k by omega]

@[simp] theorem cwImm_mkCw (o f : BitVec 8) (i : BitVec 16) : cwImm (mkCw o f i) = i := by
  apply BitVec.eq_of_getLsbD_eq; intro k hk
  simp only [cwImm, mkCw, BitVec.getLsbD_or, getLsbD_fieldAt, BitVec.getLsbD_extractLsb', hk]
  simp [show k < 32 by omega, show ¬ 24 ≤ k by omega, show ¬ 16 ≤ k by omega]

/-- A command word is its three fields (30_encoding.md R64). -/
theorem mkCw_fields (w : Word) : mkCw (cwOpc w) (cwFlags w) (cwImm w) = w := by
  apply BitVec.eq_of_getLsbD_eq; intro k hk
  simp only [mkCw, cwOpc, cwFlags, cwImm, BitVec.getLsbD_or, getLsbD_fieldAt, BitVec.getLsbD_extractLsb', hk]
  by_cases h1 : 24 ≤ k
  · simp [h1, show 24 + (k - 24) = k by omega, show k - 24 < 8 by omega, show ¬ k - 16 < 8 by omega, show ¬ k < 16 by omega]
  · by_cases h2 : 16 ≤ k
    · simp [h1, h2, show 16 + (k - 16) = k by omega, show k - 16 < 8 by omega, show ¬ k < 16 by omega]
    · simp [h1, h2, show k < 16 by omega]

theorem ifClear_eq_ok {o : BitVec 8} {b : Bool} {i j : Instr} :
    ifClear o b i = .ok j ↔ b = true ∧ i = j := by
  unfold ifClear; split <;> simp_all

@[simp] theorem flagBit_low (b : Bool) : (flagBit b)[0] = b := by cases b <;> rfl
@[simp] theorem flagBit_high (b : Bool) : (flagBit b).extractLsb' 1 7 = 0 := by cases b <;> rfl

/-- A FLAGS value whose upper seven bits are 0 is its low bit. -/
theorem flagBit_of_high {f : BitVec 8} (h : f.extractLsb' 1 7 = 0) : flagBit f[0] = f := by
  revert h; revert f; decide

@[simp] theorem bank_field (b : BitVec 2) : (fieldAt 8 b 0).extractLsb' 0 2 = b := by revert b; decide
@[simp] theorem bank_clear (b : BitVec 2) : (fieldAt 8 b 0).extractLsb' 2 6 = 0 := by revert b; decide
theorem bank_of_clear {f : BitVec 8} (h : f.extractLsb' 2 6 = 0) : fieldAt 8 (f.extractLsb' 0 2) 0 = f := by
  revert h; revert f; decide

@[simp] theorem kind_field (k : BitVec 3) : (fieldAt 8 k 0).extractLsb' 0 3 = k := by revert k; decide
@[simp] theorem kind_clear (k : BitVec 3) : (fieldAt 8 k 0).extractLsb' 3 5 = 0 := by revert k; decide
theorem kind_of_clear {f : BitVec 8} (h : f.extractLsb' 3 5 = 0) : fieldAt 8 (f.extractLsb' 0 3) 0 = f := by
  revert h; revert f; decide

/-! ### The fields of a frame (30_encoding.md R71) -/

theorem getLsbD_mkFrame (s g : Bool) (c : BitVec 12) (i : Nat) :
    (mkFrame s g c).getLsbD i = (decide (i < 16) &&
      ((decide (i = 15) && s) || (decide (i = 13) && g) || decide (i = 12) || c.getLsbD i)) := by
  simp only [mkFrame, BitVec.getLsbD_or, getLsbD_bitAt, getLsbD_fieldAt]
  by_cases h : i < 16 <;> simp [h]

@[simp] theorem mkFrame_sel (s g : Bool) (c : BitVec 12) : (mkFrame s g c)[15] = s := by
  rw [← BitVec.getLsbD_eq_getElem, getLsbD_mkFrame]; simp [BitVec.getLsbD_of_ge]

@[simp] theorem mkFrame_bit14 (s g : Bool) (c : BitVec 12) : (mkFrame s g c)[14] = false := by
  rw [← BitVec.getLsbD_eq_getElem, getLsbD_mkFrame]; simp [BitVec.getLsbD_of_ge]

@[simp] theorem mkFrame_gainN (s g : Bool) (c : BitVec 12) : (mkFrame s g c)[13] = g := by
  rw [← BitVec.getLsbD_eq_getElem, getLsbD_mkFrame]; simp [BitVec.getLsbD_of_ge]

@[simp] theorem mkFrame_active (s g : Bool) (c : BitVec 12) : (mkFrame s g c)[12] = true := by
  rw [← BitVec.getLsbD_eq_getElem, getLsbD_mkFrame]; simp

@[simp] theorem mkFrame_code (s g : Bool) (c : BitVec 12) : (mkFrame s g c).extractLsb' 0 12 = c := by
  apply BitVec.eq_of_getLsbD_eq; intro k hk
  simp only [BitVec.getLsbD_extractLsb', getLsbD_mkFrame]
  simp [hk, show k < 16 by omega, show k ≠ 15 by omega, show k ≠ 13 by omega, show k ≠ 12 by omega]

/-- A word with W[14] = 0 and W[12] = 1 is the frame of its fields. -/
theorem mkFrame_fields {w : Frame} (h14 : w.getLsbD 14 = false) (h12 : w.getLsbD 12 = true) :
    mkFrame (w.getLsbD 15) (w.getLsbD 13) (w.extractLsb' 0 12) = w := by
  apply BitVec.eq_of_getLsbD_eq; intro k hk
  rw [getLsbD_mkFrame]
  by_cases h : k < 12
  · simp [h, hk, show k ≠ 15 by omega, show k ≠ 13 by omega, show k ≠ 12 by omega]
  · have : k = 12 ∨ k = 13 ∨ k = 14 ∨ k = 15 := by omega
    rcases this with rfl | rfl | rfl | rfl <;> simp_all

end Sys2Proof
end

