-- ==== Sys2Proof/Laws/Outputs.lean ====
section
/-! SUPPORT. What driving the DAC bus and committing an output can do. -/

namespace Sys2Proof.Machine

/-! ### The bus -/

/-- A frame leaves SCK low and SDI at a free value (43_dac_frame_encoder.md R158). -/
theorem drivePins_frameWave (p : Pins) (w : Frame) (n : Nat) :
    drivePins p (frameWave w n) = { p with sck := false, sdi := Config.freeBit (n + 15) } := by
  cases p
  simp [frameWave, bitWave, List.range_succ, drivePin, drivePins]

/-- A transfer on an idle bus leaves it idle, with SDI at some value (43_dac_frame_encoder.md R158). -/
theorem drivePins_transferWave {pins : Pins} (p : Params) (k : Chip) (w : Frame) (n : Nat) (hb : busIdle pins) :
    ∃ b, drivePins pins (transferWave p k w n) = { pins with sdi := b } := by
  obtain ⟨h1, h2, h3, h4, h5⟩ := hb
  refine ⟨Config.freeBit (n + 15), ?_⟩
  cases pins
  simp only at h1 h2 h3 h4 h5
  subst h1 h2 h3 h4 h5
  simp only [transferWave, strobeWave]
  by_cases hw : ldacWired p k = true
  · rw [if_pos hw]; cases k <;> rfl
  · rw [if_neg hw]; cases k <;> rfl

theorem drivePins_append (p : Pins) (a b : List PinEvent) :
    drivePins p (a ++ b) = drivePins (drivePins p a) b := List.foldl_append

theorem sampledBits_append (k : Chip) (p : Pins) (a b : List PinEvent) :
    sampledBits k p (a ++ b) = sampledBits k p a ++ sampledBits k (drivePins p a) b := by
  induction a generalizing p with
  | nil => rfl
  | cons e a ih => simp [sampledBits, ih, drivePins]

theorem risingEdges_append (p : Pins) (a b : List PinEvent) :
    risingEdges p (a ++ b) = risingEdges p a + risingEdges (drivePins p a) b := by
  induction a generalizing p with
  | nil => simp [risingEdges, drivePins]
  | cons e a ih => simp [risingEdges, ih, drivePins]; omega

/-! ### Ranks -/

/-- An analog output's rank is below the number of analog outputs (43_dac_frame_encoder.md R154). -/
theorem rank_lt_analogCount {s : State} {o : Nat} {out : Output} (h : s.outputs[o]? = some out)
    (ha : out.analog = true) : rank s o < s.outputs.countP (·.analog) := by
  unfold rank
  obtain ⟨hlt, rfl⟩ := List.getElem?_eq_some_iff.1 h
  conv_rhs => rw [← List.take_append_drop o s.outputs, List.countP_append, List.drop_eq_getElem_cons hlt,
    List.countP_cons_of_pos ha]
  omega

theorem dacTarget_of_lt {k : Nat} (h : k < 4) : ∃ t, dacTarget k = some t := by
  interval_cases k <;> exact ⟨_, rfl⟩

/-! ### Committing one output -/

/-- An output whose DESIRED is committed is left alone (44_output_change_filter.md R174). -/
theorem commitOutput_of_committed {s : State} {o : Nat} {out : Output} (h : s.outputs[o]? = some out)
    (hc : out.committed = some out.desired) : commitOutput o s = s := by
  unfold commitOutput; rw [h]; simp [hc]

/-- All that committing an output of a machine with at most 4 analog outputs does on an idle bus
(44_output_change_filter.md R174): its write, its COMMITTED, its pin, SDI and free values. -/
theorem commitOutput_eq {s : State} {o : Nat} {out : Output} (h : s.outputs[o]? = some out)
    (hA : s.outputs.countP (·.analog) ≤ 4) (hb : busIdle s.pins) :
    ∃ b n d, commitOutput o s = { s with
      outputs := s.outputs.set o { out with dout := d, committed := some out.desired }
      pins := { s.pins with sdi := b }
      free := n
      trace := s.trace ++ (owedWrite s o out).toList } := by
  rcases commitOutput_cases h with ⟨hc, e⟩ | ⟨hc, e⟩ <;> rw [e]
  · refine ⟨s.pins.sdi, s.free, out.dout, ?_⟩
    unfold owedWrite
    rw [if_pos hc]
    have : s.outputs.set o { out with dout := out.dout, committed := some out.desired } = s.outputs := by
      obtain ⟨hlt, rfl⟩ := List.getElem?_eq_some_iff.1 h
      rw [← hc]
      exact List.set_getElem_self hlt
    rw [this]; simp
  · unfold writeOutput
    split
    · rename_i ha
      obtain ⟨⟨chip, sel⟩, ht⟩ := dacTarget_of_lt (k := rank s o) (by have := rank_lt_analogCount h ha; omega)
      obtain ⟨b, hp⟩ := drivePins_transferWave s.params chip (enc (s32 out.desired) sel) s.free hb
      refine ⟨b, s.free + 16, out.dout, ?_⟩
      unfold owedWrite
      rw [if_neg hc, if_pos ha, ht]
      have : dacTransfer chip (enc (s32 out.desired) sel) s = { s with
          pins := { s.pins with sdi := b }, free := s.free + 16,
          trace := s.trace ++ [.dacFrame chip (enc (s32 out.desired) sel)] } := by
        unfold dacTransfer; rw [hp]; rfl
      simp only [this]; rfl
    · rename_i ha
      refine ⟨s.pins.sdi, s.free, decide (s32 out.desired ≠ 0), ?_⟩
      unfold owedWrite
      rw [if_neg hc, if_neg ha]
      rfl

end Sys2Proof.Machine
end

