-- ==== Sys2Proof/Laws/PerInstr.lean ====
section
/-! SUPPORT. The family TableMask, instruction by instruction: the word of an instruction has its row's fixed bits as
spec/opcode_table.json gives them, and its decoding gives the instruction back. -/

namespace Sys2Proof.Laws.TableMask

open Sys2Proof

/-- The width, match and mask of an instruction's row of spec/opcode_table.json. -/
def row : Instr → Nat × Word × Word
  | .nop => (32, 0x01000000, 0xFFFFFFFF)
  | .rd _ => (32, 0x02000000, 0xFFFF0000)
  | .wr _ => (32, 0x03000000, 0xFFFF0000)
  | .start => (32, 0x04000000, 0xFFFFFFFF)
  | .step => (32, 0x05000000, 0xFFFFFFFF)
  | .ack => (32, 0x06000000, 0xFFFFFFFF)
  | .conv => (32, 0x10000000, 0xFFFFFFFF)
  | .thresh => (32, 0x11000000, 0xFFFFFFFF)
  | .pct _ => (32, 0x12000000, 0xFFFEFFFF)
  | .quant => (32, 0x13000000, 0xFFFFFFFF)
  | .dacenc _ => (32, 0x14000000, 0xFFFEFFFF)
  | .uCond _ _ => (32, 0x80000000, 0xFFFC0000)
  | .uSmooth _ _ => (32, 0x81000000, 0xFFFC0000)
  | .uClkdet _ => (32, 0x82000000, 0xFFFEFFFF)
  | .uCommit _ => (32, 0x83000000, 0xFFFF0000)
  | .uDacxfer _ => (32, 0x84000000, 0xFFFEFFFF)
  | .uHook _ => (32, 0x85000000, 0xFFF8FFFF)
  | .dacFrame _ _ _ => (16, 0x1000, 0x5000)

/-- The width and the word of an encoding. -/
def wordOf : Raw → Nat × Word
  | .cmd w => (32, w)
  | .frame w => (16, w.setWidth 32)

/-- The instruction's word is of its row's width and has the row's fixed bits. -/
def Statement (i : Instr) : Prop :=
  (wordOf (encode i)).1 = (row i).1 ∧ (wordOf (encode i)).2 &&& (row i).2.2 = (row i).2.1

/-- The bits of a word that end in an immediate field. -/
theorem imm_row (opc : BitVec 8) (imm : BitVec 16) :
    mkCw opc 0 imm &&& 0xFFFF0000 = mkCw opc 0 0 := by
  apply BitVec.eq_of_getLsbD_eq; intro k hk
  simp only [mkCw, BitVec.getLsbD_or, BitVec.getLsbD_and, getLsbD_fieldAt, hk]
  interval_cases k <;> simp

/-- The bits of a word with two flag bits and an immediate field. -/
theorem bank_row (opc : BitVec 8) (bank : BitVec 2) (imm : BitVec 16) :
    mkCw opc (fieldAt 8 bank 0) imm &&& 0xFFFC0000 = mkCw opc 0 0 := by
  apply BitVec.eq_of_getLsbD_eq; intro k hk
  simp only [mkCw, BitVec.getLsbD_or, BitVec.getLsbD_and, getLsbD_fieldAt, hk]
  interval_cases k <;> simp

theorem nop : Statement .nop := by unfold Statement; decide
theorem rd (addr : Addr) : Statement (.rd addr) := ⟨rfl, (imm_row 0x02 addr).trans (show mkCw 0x02 0 0 = 0x02000000 by decide)⟩
theorem wr (addr : Addr) : Statement (.wr addr) := ⟨rfl, (imm_row 0x03 addr).trans (show mkCw 0x03 0 0 = 0x03000000 by decide)⟩
theorem start : Statement .start := by unfold Statement; decide
theorem step : Statement .step := by unfold Statement; decide
theorem ack : Statement .ack := by unfold Statement; decide
theorem conv : Statement .conv := by unfold Statement; decide
theorem thresh : Statement .thresh := by unfold Statement; decide
theorem pct (rev : Bool) : Statement (.pct rev) := by unfold Statement; cases rev <;> decide
theorem quant : Statement .quant := by unfold Statement; decide
theorem dacenc (sel : Bool) : Statement (.dacenc sel) := by unfold Statement; cases sel <;> decide
theorem uCond (bank : BitVec 2) (channel : BitVec 16) : Statement (.uCond bank channel) :=
  ⟨rfl, (bank_row 0x80 bank channel).trans (show mkCw 0x80 0 0 = 0x80000000 by decide)⟩
theorem uSmooth (bank : BitVec 2) (channel : BitVec 16) : Statement (.uSmooth bank channel) :=
  ⟨rfl, (bank_row 0x81 bank channel).trans (show mkCw 0x81 0 0 = 0x81000000 by decide)⟩
theorem uClkdet (second : Bool) : Statement (.uClkdet second) := by unfold Statement; cases second <;> decide
theorem uCommit (output : BitVec 16) : Statement (.uCommit output) :=
  ⟨rfl, (imm_row 0x83 output).trans (show mkCw 0x83 0 0 = 0x83000000 by decide)⟩
theorem uDacxfer (chip : Bool) : Statement (.uDacxfer chip) := by unfold Statement; cases chip <;> decide
theorem uHook (kind : BitVec 3) : Statement (.uHook kind) := by unfold Statement; revert kind; decide
theorem dacFrame (sel gaN : Bool) (code : BitVec 12) : Statement (.dacFrame sel gaN code) := by
  refine ⟨rfl, ?_⟩
  apply BitVec.eq_of_getLsbD_eq; intro k hk
  simp only [wordOf, encode, row, BitVec.getLsbD_and, BitVec.getLsbD_setWidth, getLsbD_mkFrame]
  interval_cases k <;> simp

end Sys2Proof.Laws.TableMask
end

