-- ==== Sys2Proof/Tests/Slice0.lean ====
section
/-! SUPPORT. Tests: the smoke test of WellFormed, the decoding of words written out bit by bit from 30_encoding.md R65
to R71, one-step vectors of 95_test_vectors.md, and for every statement with hypotheses a state and operands that
meet them. -/

namespace Sys2Proof.Tests

open Sys2Proof Sys2Proof.Machine

-- One theorem at a time: each evaluation in the kernel waits for what stands before it, and a thread that waits
-- holds its stack.
set_option Elab.async false

/-! ### WellFormed: each check refuses an ill-formed term -/

theorem test_wf_uCond_bank0 : (Instr.uCond 0 0).wellFormed = false := by decide
theorem test_wf_uSmooth_bank0 : (Instr.uSmooth 0 5).wellFormed = false := by decide
theorem test_wf_uHook_kind0 : (Instr.uHook 0).wellFormed = false := by decide
theorem test_wf_uHook_kind7 : (Instr.uHook 7).wellFormed = false := by decide
theorem test_wf_accepts : (Instr.uCond 3 0).wellFormed = true ∧ (Instr.uHook 6).wellFormed = true := by decide

/-! ### Decoding of words written out from 30_encoding.md R65, R66, R68, R71

OPC in [31:24], FLAGS in [23:16], IMM16 in [15:0]. -/

theorem test_decode_nop : decode (.cmd 0b00000001_00000000_0000000000000000) = .ok .nop := by decide
theorem test_decode_rd : decode (.cmd 0b00000010_00000000_0000000100001110) = .ok (.rd 0x010E) := by decide
theorem test_decode_wr : decode (.cmd 0b00000011_00000000_0000010000000011) = .ok (.wr 0x0403) := by decide
theorem test_decode_start : decode (.cmd 0b00000100_00000000_0000000000000000) = .ok .start := by decide
theorem test_decode_step : decode (.cmd 0b00000101_00000000_0000000000000000) = .ok .step := by decide
theorem test_decode_ack : decode (.cmd 0b00000110_00000000_0000000000000000) = .ok .ack := by decide
theorem test_decode_conv : decode (.cmd 0b00010000_00000000_0000000000000000) = .ok .conv := by decide
theorem test_decode_thresh : decode (.cmd 0b00010001_00000000_0000000000000000) = .ok .thresh := by decide
theorem test_decode_pct : decode (.cmd 0b00010010_00000000_0000000000000000) = .ok (.pct false) := by decide
theorem test_decode_pct_rev : decode (.cmd 0b00010010_00000001_0000000000000000) = .ok (.pct true) := by decide
theorem test_decode_quant : decode (.cmd 0b00010011_00000000_0000000000000000) = .ok .quant := by decide
theorem test_decode_dacenc_b : decode (.cmd 0b00010100_00000001_0000000000000000) = .ok (.dacenc true) := by decide
theorem test_decode_uCond : decode (.cmd 0b10000000_00000010_0000000000000101) = .ok (.uCond 2 5) := by decide
theorem test_decode_uSmooth : decode (.cmd 0b10000001_00000001_0000000000011111) = .ok (.uSmooth 1 31) := by decide
theorem test_decode_uClkdet : decode (.cmd 0b10000010_00000001_0000000000000000) = .ok (.uClkdet true) := by decide
theorem test_decode_uCommit : decode (.cmd 0b10000011_00000000_0000000000000111) = .ok (.uCommit 7) := by decide
theorem test_decode_uDacxfer : decode (.cmd 0b10000100_00000001_0000000000000000) = .ok (.uDacxfer true) := by decide
theorem test_decode_uHook : decode (.cmd 0b10000101_00000101_0000000000000000) = .ok (.uHook 5) := by decide
/-- DACENC.B of 1000 gives 0xB7D0 (95_test_vectors.md EN6): SEL 1, bit 14 0, GA_n 1, ACTIVE 1, CODE 2000. -/
theorem test_decode_dacFrame : decode (.frame 0b1_0_1_1_011111010000) = .ok (.dacFrame true true 2000) := by decide
/-- HI23, HI24, HI26 and a frame with W[14] = 1: refused by name. -/
theorem test_decode_refuses :
    decode (.cmd 0x01000001) = .error (.reservedBits 0x01) ∧
    decode (.cmd 0x00000000) = .error (.unassignedOpcode 0x00) ∧
    decode (.cmd 0x02010000) = .error (.reservedBits 0x02) ∧
    decode (.frame 0x5000) = .error (.notAFrame 0x5000) := by decide
/-- spec/opcode_table.json, the rows DACENC and DAC_FRAME, through the host's entry. -/
theorem test_decodeTableWord :
    decodeTableWord 32 0x14010000 = some (.dacenc true) ∧
    decodeTableWord 16 0x1BB8 = some (.dacFrame false false 0xBB8) := by decide

/-! ### Small states -/

/-- The reset state of 95_test_vectors.md section 2.1 with the latches CW, OPA, OPB, OPC. -/
def latched (cw a b c : Word) : State := { State.reset with cw := cw, opa := a, opb := b, opc := c }

/-- A pot that START accepts: VMAX = 5000, TOL = 4. -/
def pot : Channel := { Channel.reset with vmax := 5000, tol := 4 }

/-- An input that is not smoothed (CCTL = 0). -/
def rawInput : Channel := { Channel.reset with smooth := false }

/-- RUN at IDLE with one unsmoothed input, CLK1 on it, one pot, one switch and one digital output, and samples. -/
def running : State :=
  { State.reset with
    mode := .run, inputs := [rawInput], pots := [pot], outputs := [Output.reset false],
    clk1 := { Clock.reset with src := ⟨true, 0⟩ }, samples := [4000, 819, 1000] }

/-- `running` with an input that no conversion of a large sample fits (CD10). -/
def overRange : State :=
  { running with inputs := [{ rawInput with r1 := 0xFFFFFFFF, r2 := 1 }] }

/-- A halted machine. -/
def halted : State := { State.reset with mode := .halted, faultCode := .badPhase }

/-- The next state of an outcome. -/
def after (r : Result) : Option State :=
  match r with
  | .next t => some t
  | _ => none

/-- RES after an outcome. -/
def resAfter (r : Result) : Option Word := (after r).map (·.res)

/-- FAULT_INFO, the code and RES after an outcome that raised. -/
def faultAfter (r : Result) : Option (FaultCode × Word) := (after r).map (fun t => (t.faultCode, t.faultInfo))

/-- The result of one host command from a state. -/
def issue (s : State) (cw a b c : Word) : Result := step { s with inbox := [.cmd ⟨cw, a, b, c⟩] }

/-! ### One-step vectors of 95_test_vectors.md -/

theorem test_nop_HI1 :
    after (issue { State.reset with res := 9 } 0x01000000 0 0 0) = some (latched 0x01000000 0 0 0) := by
  decide +kernel
theorem test_illegal_HI25 : faultAfter (issue State.reset 0x80010000 0 0 0) = some (.illegalCmd, 0x80010000) := by
  decide +kernel
theorem test_rd_HI3_HI5 : resAfter (issue State.reset 0x02000007 0 0 0) = some 0x02010102 ∧
    resAfter (issue State.reset 0x02000205 0 0 0) = some 1 := by decide +kernel
theorem test_rd_HI14 : faultAfter (issue State.reset 0x02000107 0 0 0) = some (.badIndex, 0x02000107) := by
  decide +kernel
theorem test_wr_HI7_HI9 :
    (after (issue State.reset 0x03000003 0xFFFFFFFF 0 0)).bind (·.readAt 0x0003) = some 0x00003F01 ∧
    (after (issue State.reset 0x03000100 0xFF 0 0)).bind (·.readAt 0x0100) = some 7 := by decide +kernel
theorem test_wr_HI18_HI20 : faultAfter (issue State.reset 0x03000106 5 0 0) = some (.readOnly, 0x03000106) ∧
    faultAfter (issue running 0x03000003 0 0 0) = some (.cfgLocked, 0x03000003) := by decide +kernel
theorem test_start_SC7 : faultAfter (issue State.reset 0x04000000 0 0 0) = some (.divZero, 0x0204) := by
  decide +kernel
theorem test_start_S2 :
    (after (issue { State.reset with pots := [pot], ctrl := { Ctrl.reset with heStart := true } }
      0x04000000 0 0 0)).bind (·.readAt 0) = some 0x00000111 := by decide +kernel
/-- Sample 4000 converts to 4882 (V5), a rise (CK3), and the digital output is written (O1). -/
theorem test_step_cycle :
    (after (issue running 0x05000000 0 0 0)).map (fun t =>
      (t.inputs.map (·.reading), t.clk1.level, t.clk1.rise, t.trace)) =
      some ([4882], true, true, [.digitalWrite 0 false]) := by decide +kernel
theorem test_step_S5 : faultAfter (issue State.reset 0x05000000 0 0 0) = some (.badPhase, 0x05000000) := by
  decide +kernel
theorem test_ack_S10 :
    (after (issue { running with hook := .step, phase := .stepHook } 0x06000000 0 0 0)).map (fun t =>
      (t.phase, t.hook, t.trace)) = some (.idle, .none, [.digitalWrite 0 false]) := by decide +kernel
theorem test_ack_S7 : faultAfter (issue running 0x06000000 0 0 0) = some (.badPhase, 0x06000000) := by
  decide +kernel
theorem test_conv_V9_V10 : resAfter (issue State.reset 0x10000000 1000 20000 10000) = some 3662 ∧
    resAfter (issue State.reset 0x10000000 4095 100000 1) = some 499882928 := by decide +kernel
theorem test_conv_V13_V15 :
    faultAfter (issue State.reset 0x10000000 5000 1 0) = some (.divZero, 0x10000000) ∧
    faultAfter (issue State.reset 0x10000000 1 0xFFFFFFFF 1) = some (.range, 0x10000000) := by decide +kernel
theorem test_thresh_T2_T6 : resAfter (issue State.reset 0x11000000 2500 2500 0) = some 0 ∧
    resAfter (issue State.reset 0x11000000 0x7FFFFFFF 0x80000000 0) = some 1 := by decide +kernel
theorem test_pct_PC4_PC5 : resAfter (issue State.reset 0x12000000 6000 5000 3) = some 99 ∧
    resAfter (issue State.reset 0x12010000 6000 5000 3) = some 1 := by decide +kernel
theorem test_pct_PC7_PC14 : resAfter (issue State.reset 0x12000000 (-100) 5000 4) = some 0 ∧
    faultAfter (issue State.reset 0x12000000 2500 0 4) = some (.divZero, 0x12000000) := by decide +kernel
theorem test_quant_Q7_Q9 : resAfter (issue State.reset 0x13000000 0 0x800 0) = some (-84) ∧
    resAfter (issue State.reset 0x13000000 600 0x021 0) = some 416 := by decide +kernel
/-- 95_test_vectors.md section 1.5: ties go to the floor, and negative octaves. -/
theorem test_quant_root : resAfter (issue State.reset 0x13000000 500 0x001 0) = some 0 ∧
    resAfter (issue State.reset 0x13000000 (-550) 0x001 0) = some (-1000) := by decide +kernel
theorem test_dacenc_EN11_EN14 : resAfter (issue State.reset 0x14000000 2048 0 0) = some 0x3000 ∧
    resAfter (issue State.reset 0x14010000 3000 0 0) = some 0x9BB8 := by decide +kernel
theorem test_uCond_CD1 :
    (after (exec (.uCond 1 0) { State.reset with samples := [4095] })).map (fun t =>
      t.inputs.map (fun ch => (ch.reading, ch.hist.h7, ch.hist.h6))) =
      some [(624, 4998, 0), (0, 0, 0)] := by decide +kernel
theorem test_uCond_CD7 :
    (after (exec (.uCond 2 0) { State.reset with
      samples := [819], pots := [{ pot with smooth := false, rev := true }] })).map (fun t =>
      t.pots.map (·.reading)) = some [84] := by decide +kernel
theorem test_uSmooth_shifts :
    (after (exec (.uSmooth 1 1) { State.reset with opa := 100 })).map (fun t => t.inputs.map (·.hist)) =
      some [Hist.reset, ⟨0, 0, 0, 0, 0, 0, 0, 100⟩] := by decide +kernel
theorem test_uClkdet_CK5 :
    (after (exec (.uClkdet true) { running with clk2 := ⟨⟨true, 0⟩, true, false, false⟩ })).bind (·.readAt 6) =
      some 0x008 := by decide +kernel
theorem test_uCommit_O4 :
    (after (exec (.uCommit 0) { running with outputs := [⟨false, 1, some 5, true⟩] })).map (fun t =>
      (t.trace, t.outputs)) = some ([.digitalWrite 0 true], [⟨false, 1, some 1, true⟩]) := by decide +kernel
/-- O12: an analog output of rank 1 with DESIRED = 2048. -/
theorem test_uCommit_O12 :
    (after (exec (.uCommit 1) { running with outputs := [⟨true, 0, none, false⟩, ⟨true, 2048, some 3000, false⟩] })).map
      (·.trace) = some [.dacFrame .chip0 0xB000] := by decide +kernel
theorem test_uDacxfer_X1 :
    (after (exec (.uDacxfer false) { running with opa := 0xABCD1BB8 })).map (·.trace) =
      some [.dacFrame .chip0 0x1BB8] := by decide +kernel
/-- X2: what chip 1 samples. -/
theorem test_uDacxfer_X2 :
    sampledBits .chip1 Pins.reset (transferWave Config.exampleParams .chip1 0xB7D0 0) =
      [true, false, true, true, false, true, true, true, true, true, false, true, false, false, false, false] := by
  simp [sampledBits, transferWave, frameWave, bitWave, strobeWave, ldacWired, Config.exampleParams, List.range_succ,
    drivePin, selectedChip, Pins.reset]
theorem test_uHook_kinds : (after (exec (.uHook 3) running)).map (·.hook) = some .fall1 ∧
    (after (exec (.uHook 6) running)).map (·.hook) = some .step := by decide +kernel
/-- 43_dac_frame_encoder.md R158, step 2: SCK is low after, CS_n stays; 10_state.md R41: no event. -/
theorem test_dacFrame_drives_the_wire :
    (after (exec (.dacFrame false false 0xBB8) { running with pins := { Pins.reset with csN0 := false } })).map
      (fun t => (t.pins.csN0, t.pins.csN1, t.pins.sck, t.trace)) = some (false, true, false, []) := by decide +kernel
/-- The words of CTRL, CLK1_SRC, CCTL and OCTL, one bit of each (10_state.md R26, R27, R30, R39). -/
theorem test_wr_fields :
    (after (issue State.reset 0x03000003 0x00000200 0 0)).map (·.ctrl) = some { Ctrl.reset with heRise1 := true } ∧
    (after (issue State.reset 0x03000004 0x80000001 0 0)).map (·.clk1.src) = some ⟨true, 1⟩ ∧
    (after (issue State.reset 0x03000200 0x00000004 0 0)).map (·.pots) =
      some [{ Channel.reset with smooth := false, rev := true }] ∧
    (after (issue State.reset 0x03000402 0x00000001 0 0)).map (·.outputs.map (·.analog)) = some [false, true] := by
  decide +kernel
/-- The host's entry: the word is what the next step runs. -/
theorem test_withFetchWord : resAfter (step (State.reset.withFetchWord 32 0x02000007)) = some 0x02010102 ∧
    (after (step (State.reset.withFetchWord 32 0x85060000))).map (·.hook) = some .step := by decide +kernel
theorem test_withFetchWord_frame :
    step (State.reset.withFetchWord 16 0x1BB8) = exec (.dacFrame false false 0xBB8) State.reset := by rfl

/-! ### Witnesses: a state and operands that meet the hypotheses of each statement -/

/-- `running` with host command `c` issued. -/
def withCmd (s : State) (cw : Word) : State := { s with inbox := [.cmd ⟨cw, 7, 0, 0⟩] }

/-- EncodeOfDecode: a word of each format that decodes. -/
theorem test_witness_EncodeOfDecode : decode (.cmd 0x84010000) = .ok (.uDacxfer true) ∧
    decode (.frame 0xBFFF) = .ok (.dacFrame true true 0xFFF) := by decide

/-- IllegalCommandWords: a word that the host may not issue, outside HALTED. -/
theorem test_witness_IllegalCommandWords :
    let s := withCmd running 0x85010000
    s.inbox = .cmd ⟨0x85010000, 7, 0, 0⟩ :: [] ∧ s.mode ≠ .halted ∧ legalCw 0x85010000 = false := by
  decide

/-- StepRunsTheDecodedInstruction: a host command, a micro-operation by itself and a frame by itself. -/
theorem test_witness_StepRunsTheDecodedInstruction :
    ((withCmd running 0x05000000).inbox = .cmd ⟨0x05000000, 7, 0, 0⟩ :: [] ∧
      decode (.cmd 0x05000000) = .ok .step ∧ Instr.step.isHost = true) ∧
    (({ running with inbox := [.micro 0x85060000 0] } : State).inbox = .micro 0x85060000 0 :: [] ∧
      decode (.cmd 0x85060000) = .ok (.uHook 6) ∧ (Instr.uHook 6).isHost = false) ∧
    (({ running with inbox := [.frame 0x1BB8] } : State).inbox = .frame 0x1BB8 :: [] ∧
      decode (.frame 0x1BB8) = .ok (.dacFrame false false 0xBB8)) := by decide

/-- NopOnlyClearsRes: a NOP word with a FLAGS bit, and one with an IMM16 bit. -/
theorem test_witness_NopOnlyClearsRes :
    (cwOpc 0x01800000 = 0x01 ∧ cwFlags 0x01800000 ≠ 0) ∧ (cwOpc 0x01000001 = 0x01 ∧ cwImm 0x01000001 ≠ 0) := by
  decide

/-- RdAnswersTheRegister: the last mapped output register, and the first address above it in both kinds of mode. -/
theorem test_witness_RdAnswersTheRegister :
    State.reset.readAt 0x0403 = some 0 ∧
    (halted.readAt 0x0404 = none ∧ halted.mode = .halted) ∧
    (State.reset.readAt 0x0404 = none ∧ State.reset.mode ≠ .halted) := by decide +kernel

/-- WrTurnedAway: each of its clauses. -/
theorem test_witness_WrTurnedAway :
    halted.mode = .halted ∧
    (running.mode ≠ .halted ∧ running.regAt 0x0008 = none) ∧
    (running.regAt 0x0106 = some (.chan .inputs 0 .reading) ∧
      regAccess (.chan .inputs 0 .reading) = .readOnly) ∧
    (running.mode = .run ∧ running.regAt 0x0400 = some (.out 0 .octl) ∧ regAccess (.out 0 .octl) = .config) := by
  decide +kernel

/-- WrStoresUnderItsMask: a configuration register in CONFIG, DESIRED in CONFIG and in RUN. -/
theorem test_witness_WrStoresUnderItsMask :
    (State.reset.regAt 0x0305 = some (.chan .switches 0 .tol) ∧ State.reset.mode = .config ∧
      regAccess (.chan .switches 0 .tol) ≠ .readOnly) ∧
    (State.reset.regAt 0x0403 = some (.out 1 .desired) ∧ regAccess (.out 1 .desired) ≠ .readOnly) ∧
    (running.regAt 0x0401 = some (.out 0 .desired) ∧ running.mode = .run ∧
      regAccess (.out 0 .desired) = .desired) := by decide +kernel

/-- RegisterAddresses: the last channel and the last output of the map. -/
theorem test_witness_RegisterAddresses : (31 : Nat) < 32 ∧
    regOfAddr 0x01FE = some (.chan .inputs 31 .reading) ∧ regOfAddr 0x043F = some (.out 31 .desired) := by
  decide +kernel

/-- StatusAndEventWords: a machine with the largest counts, its last switch and its last output. -/
theorem test_witness_StatusAndEventWords :
    let s := State.resetWith ⟨32, 32, 32, 32⟩ Config.exampleParams
    sized s ∧ (s.bank .switches)[31]? = some Channel.reset ∧ s.outputs[31]? = some (Output.reset false) := by
  unfold sized; decide +kernel

/-- ConvConverts, ThreshCompares, PctComputes, DacencAnswersTheFrame, QuantAnswers, CommandsOutOfPhase: a state that is
not HALTED; of QUANT also the empty scale. -/
theorem test_witness_not_halted : running.mode ≠ .halted ∧
    (latched 0x13000000 1234 0xFFFFF000 0).opb.extractLsb' 0 12 = 0 := by decide

/-- ConvProperties: each premise. -/
theorem test_witness_ConvProperties : 0 < (1 : Nat) ∧ (4094 : Nat) ≤ 4095 := by decide

/-- SmoothingOverReadings: eight readings, and seven. -/
theorem test_witness_SmoothingOverReadings : 8 ≤ (List.replicate 8 (1 : Word)).length ∧
    (List.replicate 7 (1 : Word)).length < 8 := by decide

/-- USmoothShiftsTheHistory, UCondConditionsItsChannel: channel 0 of the pots of `running`, whose conversion does not
raise. -/
theorem test_witness_UCondConditionsItsChannel :
    bankOfCode 2 = some .pots ∧ (running.bank .pots)[(0 : BitVec 16).toNat]? = some pot ∧
    conv running.params running.sample pot.r1.toNat pot.r2.toNat = .ok 4882 ∧
    pot.vmax ≠ 0 ∧ pot.tol ≠ 0 := by decide +kernel

/-- The same for an input and a switch. -/
theorem test_witness_UCondConditionsItsChannel_banks :
    (bankOfCode 1 = some .inputs ∧ (running.bank .inputs)[(0 : BitVec 16).toNat]? = some rawInput ∧
      conv running.params running.sample rawInput.r1.toNat rawInput.r2.toNat = .ok 4882) ∧
    (bankOfCode 3 = some .switches ∧ (running.bank .switches)[(0 : BitVec 16).toNat]? = some Channel.reset ∧
      conv running.params running.sample Channel.reset.r1.toNat Channel.reset.r2.toNat = .ok 4882) := by
  decide +kernel

/-- UCondRaisesRange: V15's divider. -/
theorem test_witness_UCondRaisesRange :
    bankOfCode 1 = some .inputs ∧
    (overRange.bank .inputs)[(0 : BitVec 16).toNat]? = some { rawInput with r1 := 0xFFFFFFFF, r2 := 1 } ∧
    ((1 : Word).toNat ≠ 0) ∧ 2147483647 < convExact overRange.params overRange.sample 0xFFFFFFFF 1 := by
  decide +kernel

/-- PctCorners: each premise, at its boundary. -/
theorem test_witness_PctCorners : (0 < 5000 ∧ 0 < 4 ∧ (5000 : Int) ≤ 5000) ∧ ((0 : Int) ≤ 0) ∧ (100 < 101) ∧ (4 ∣ 100) ∧
    ¬(3 ∣ 100) := by decide

/-- SamplesAreInRange: a listed sample that is ADC_MAX. -/
theorem test_witness_SamplesAreInRange :
    ({ running with samples := [4095] } : State).samples = 4095 :: [] ∧
    (4095 : BitVec 24).toNat ≤ 2 ^ (running.params.adcBitsPred.val + 1) - 1 := by decide +kernel

/-- ConditioningPhaseMapsTheBank: the inputs of `running`. -/
theorem test_witness_ConditioningPhaseMapsTheBank :
    running.mode ≠ .halted ∧ (running.bank .inputs).length ≤ running.samples.length ∧
    List.zipWith
      (fun (x : BitVec 24) ch =>
        conditioned running.params .inputs (x.toNat % 2 ^ (running.params.adcBitsPred.val + 1)) ch)
      running.samples (running.bank .inputs) = [{ rawInput with reading := 4882 }].map some := by decide +kernel

/-- UClkdetTakesTheEdges: CLK2 disabled and CLK1 enabled on input 0; the same for CLK2, and CLK1 disabled. -/
theorem test_witness_UClkdetTakesTheEdges :
    (running.clk2.src.en = false ∧ running.clk1.src.en = true ∧
      running.inputs[running.clk1.src.idx.toNat]? = some rawInput) ∧
    (let s : State := { running with clk1 := Clock.reset, clk2 := running.clk1 }
     s.clk1.src.en = false ∧ s.clk2.src.en = true ∧ s.inputs[s.clk2.src.idx.toNat]? = some rawInput) := by
  decide +kernel

/-- EdgesAreTransitions: a detector in AwaitingRise. -/
theorem test_witness_EdgesAreTransitions : Clock.reset.level = false := by decide

/-- DacPayloadAndGain: the codes at which its clauses meet. -/
theorem test_witness_DacPayloadAndGain : ((0 : Int) ≤ 2049 ∧ (2049 : Int) ≤ 4095 ∧ (2048 : Int) < 2049) ∧
    ((2047 : Int) < 2048) := by decide

/-- TransferWaveform, UDacxferSendsOneFrame: the idle bus. -/
theorem test_witness_busIdle : busIdle running.pins := by unfold busIdle; decide

/-- DacFrameReachesTheSelectedChip: SCK low with chip 0 selected, and with chip 1. -/
theorem test_witness_DacFrameReachesTheSelectedChip :
    (let p : Pins := { Pins.reset with csN0 := false }
     p.sck = false ∧ p.csN0 = false ∧ p.csN1 = true) ∧
    (let p : Pins := { Pins.reset with csN1 := false }
     p.sck = false ∧ p.csN0 = true ∧ p.csN1 = false) := by decide

/-- Four analog outputs with a digital one among them, DESIRED not committed. -/
def fourAnalog : State :=
  { running with outputs :=
      [⟨true, 3000, none, false⟩, ⟨false, 5, some 0, false⟩, ⟨true, 1000, none, false⟩,
       ⟨true, 2049, none, false⟩, ⟨true, 4095, some 4095, false⟩] }

/-- AnalogOutputsHaveDistinctChannels: the first and the last of four. -/
theorem test_witness_AnalogOutputsHaveDistinctChannels :
    analogCount fourAnalog ≤ 4 ∧ fourAnalog.outputs[0]? = some ⟨true, 3000, none, false⟩ ∧
    fourAnalog.outputs[4]? = some ⟨true, 4095, some 4095, false⟩ ∧ (0 : Nat) < 4 := by decide +kernel

/-- UCommitOfADigitalOutput: an output that differs (O3), and one that does not (O2). -/
theorem test_witness_UCommitOfADigitalOutput :
    fourAnalog.outputs[(1 : BitVec 16).toNat]? = some ⟨false, 5, some 0, false⟩ ∧ (some 0 : Option Word) ≠ some 5 ∧
    ({ running with outputs := [⟨false, 0, some 0, false⟩] } : State).outputs[(0 : BitVec 16).toNat]? =
      some ⟨false, 0, some 0, false⟩ := by decide +kernel

/-- UCommitOfAnAnalogOutput: the outputs of rank 0 and 3, of which the last is committed. -/
theorem test_witness_UCommitOfAnAnalogOutput :
    (fourAnalog.outputs[(0 : BitVec 16).toNat]? = some ⟨true, 3000, none, false⟩ ∧
      0 = (fourAnalog.outputs.take (0 : BitVec 16).toNat).countP (·.analog)) ∧
    (fourAnalog.outputs[(4 : BitVec 16).toNat]? = some ⟨true, 4095, some 4095, false⟩ ∧
      3 = (fourAnalog.outputs.take (4 : BitVec 16).toNat).countP (·.analog)) ∧
    fourAnalog.pins = running.pins := by decide +kernel

/-- CommitPhaseWritesExactlyTheChanges: `fourAnalog`, and it owes four writes. -/
theorem test_witness_CommitPhaseWritesExactlyTheChanges :
    analogCount fourAnalog ≤ 4 ∧ busIdle fourAnalog.pins ∧
    owedWrites fourAnalog = [.dacFrame .chip0 0x1BB8, .digitalWrite 1 true, .dacFrame .chip0 0xB7D0,
      .dacFrame .chip1 0x1801] := by unfold busIdle; decide +kernel

/-- The configuration of `running` is one that START accepts. -/
theorem test_running_configOk : configOk running := by
  refine ⟨by decide, by unfold clockSrcOk; decide, by unfold clockSrcOk; decide, ?_, ?_⟩
  · intro b ch h
    have : ch.r1 = 0 := by
      cases b <;> simp [State.bank, running, State.reset, State.resetWith, Config.exampleCounts] at h <;> rw [h] <;> rfl
    left; rw [this]; rfl
  · intro ch h
    simp [running] at h
    rw [h]; decide

/-- StartEntersRun: a CONFIG state that passes, and the reset state, which does not (its pot has VMAX = 0). -/
theorem test_witness_StartEntersRun :
    (({ running with mode := .config } : State).mode = .config ∧ configOk { running with mode := .config }) ∧
    (State.reset.mode = .config ∧ ¬ configOk State.reset) :=
  ⟨⟨rfl, test_running_configOk⟩, rfl, fun h => (h.2.2.2.2 Channel.reset (by decide)).1 rfl⟩

/-- StartChecksInOrder, checks 1 and 2: SC1, and a source one past the inputs on CLK1 and on CLK2 (SC3, SC4). -/
theorem test_witness_StartChecksInOrder_outputs_clocks :
    (let s : State := { State.reset with outputs := List.replicate 5 ⟨true, 0, none, false⟩ }
     s.mode = .config ∧ 4 < s.outputs.countP (·.analog)) ∧
    (let s : State := { State.reset with clk1 := ⟨⟨true, 2⟩, false, false, false⟩ }
     s.mode = .config ∧ s.outputs.countP (·.analog) ≤ 4 ∧ ¬ clockSrcOk s s.clk1) ∧
    (let s : State := { State.reset with
      clk1 := ⟨⟨true, 1⟩, false, false, false⟩, clk2 := ⟨⟨true, 2⟩, false, false, false⟩ }
     s.mode = .config ∧ s.outputs.countP (·.analog) ≤ 4 ∧ clockSrcOk s s.clk1 ∧ ¬ clockSrcOk s s.clk2) := by
  unfold clockSrcOk; decide +kernel

/-- StartChecksInOrder, the dividers: SC6, the second input. -/
theorem test_witness_StartChecksInOrder_divider :
    let s : State := { State.reset with inputs := [Channel.reset, { Channel.reset with r1 := 5 }] }
    s.mode = .config ∧ s.outputs.countP (·.analog) ≤ 4 ∧ clockSrcOk s s.clk1 ∧ clockSrcOk s s.clk2 ∧
    (s.bank .inputs)[1]? = some { Channel.reset with r1 := 5 } ∧ ¬ dividerOk { Channel.reset with r1 := 5 } ∧
    ∀ b' c' ch', (s.bank b')[c']? = some ch' →
      bankCode b' < bankCode .inputs ∨ b' = .inputs ∧ c' < 1 → dividerOk ch' := by
  refine ⟨rfl, by decide, by unfold clockSrcOk; decide, by unfold clockSrcOk; decide, rfl,
    by unfold dividerOk; decide, ?_⟩
  rintro b' c' ch' h (hb | ⟨rfl, hc⟩)
  · cases b' <;> simp [bankCode] at hb
  · obtain rfl : c' = 0 := by omega
    simp [State.bank] at h
    rw [← h]; left; rfl

/-- StartChecksInOrder, the pots: SC7 (VMAX = 0) and SC8 (TOL = 0). -/
theorem test_witness_StartChecksInOrder_pots :
    let s : State := State.reset
    let u : State := { State.reset with pots := [{ pot with tol := 0 }] }
    (s.mode = .config ∧ s.outputs.countP (·.analog) ≤ 4 ∧ clockSrcOk s s.clk1 ∧ clockSrcOk s s.clk2 ∧
      s.pots[0]? = some Channel.reset ∧ Channel.reset.vmax.toNat = 0) ∧
    (u.mode = .config ∧ u.outputs.countP (·.analog) ≤ 4 ∧ clockSrcOk u u.clk1 ∧ clockSrcOk u u.clk2 ∧
      u.pots[0]? = some { pot with tol := 0 } ∧ ({ pot with tol := 0 } : Channel).tol.toNat = 0) ∧
    (∀ b, ∀ ch' ∈ s.bank b, dividerOk ch') ∧ (∀ b, ∀ ch' ∈ u.bank b, dividerOk ch') := by
  refine ⟨⟨rfl, by decide, by unfold clockSrcOk; decide, by unfold clockSrcOk; decide, rfl, rfl⟩,
    ⟨rfl, by decide, by unfold clockSrcOk; decide, by unfold clockSrcOk; decide, rfl, rfl⟩, ?_, ?_⟩
  · intro b ch h
    cases b <;> simp [State.bank, State.reset, State.resetWith, Config.exampleCounts] at h <;> rw [h] <;> left <;> rfl
  · intro b ch h
    cases b <;> simp [State.bank, State.reset, State.resetWith, Config.exampleCounts] at h <;> rw [h] <;> left <;> rfl

/-- StepRunsACycle: `running`, whose conversions all fit. -/
theorem test_witness_StepRunsACycle :
    running.mode = .run ∧ running.phase = .idle ∧ running.hook = .none ∧ configOk running ∧ busIdle running.pins ∧
    ∀ b c ch, (running.bank b)[c]? = some ch →
      convExact running.params (drawAt running (drawIndex running b c)) ch.r1.toNat ch.r2.toNat ≤ 2147483647 := by
  refine ⟨rfl, rfl, rfl, test_running_configOk, test_witness_busIdle, ?_⟩
  intro b c ch h
  replace h := List.mem_of_getElem? h
  have h12 : ch.r1 = 0 ∧ ch.r2 = 0 := by
    cases b <;> simp [State.bank, running, State.reset, State.resetWith, Config.exampleCounts] at h <;> rw [h] <;>
      exact ⟨rfl, rfl⟩
  have hx : drawAt running (drawIndex running b c) < 4096 := Nat.mod_lt _ (by decide)
  generalize drawAt running (drawIndex running b c) = x at hx
  rw [h12.1, h12.2]
  have : convExact running.params x (0 : Word).toNat (0 : Word).toNat = (x * 5000 : Nat) / 4096 := rfl
  rw [this]; omega

/-- StepThatRaises: `overRange` in RUN at IDLE, whose input's draw is over the range, and which raises. -/
theorem test_witness_StepThatRaises :
    ((overRange.bank .inputs)[0]? = some { rawInput with r1 := 0xFFFFFFFF, r2 := 1 } ∧
      2147483647 < convExact overRange.params (drawAt overRange (drawIndex overRange .inputs 0)) 0xFFFFFFFF 1) ∧
    overRange.mode = .run ∧ overRange.phase = .idle ∧ overRange.hook = .none ∧
    (after (exec .step overRange)).map (fun t => (t.mode, t.phase, t.faultInfo)) =
      some (.halted, .condIn, 0x0106) := by decide +kernel

/-- The configuration of `overRange` is one that START accepts. -/
theorem test_witness_StepThatRaises_configOk : configOk overRange := by
  obtain ⟨h1, h2, h3, h4, h5⟩ := test_running_configOk
  refine ⟨h1, h2, h3, ?_, h5⟩
  intro b ch h
  cases b
  · simp [State.bank, overRange] at h
    rw [h]; right; decide
  · exact h4 .pots ch h
  · exact h4 .switches ch h

/-- AckOfTheStartAndStepHooks, AckOfAClockHookGoesOn: each hook, with and without the STEP hook, and both edges of
CLK2. -/
theorem test_witness_Ack :
    (∀ h : Hook, ({ running with hook := h } : State).mode = .run ∧ ({ running with hook := h } : State).hook = h) ∧
    analogCount running ≤ 4 ∧ running.clk2.src.en = false ∧ running.ctrl.heStep = false ∧
    ({ running with ctrl := { Ctrl.reset with heStep := true } } : State).ctrl.heStep = true :=
  ⟨fun _ => ⟨rfl, rfl⟩, by decide, rfl, rfl, rfl⟩

/-- AckOfAClockHookGoesOn, second part: a CLK1 hook with CLK2 about to rise, and about to fall. -/
theorem test_witness_AckOfAClockHookGoesOn :
    let s : State := { running with
      hook := .rise1, phase := .clk1, clk2 := ⟨⟨true, 0⟩, false, false, false⟩,
      inputs := [{ rawInput with reading := 1 }],
      ctrl := { Ctrl.reset with heRise2 := true, heFall2 := true } }
    let u : State := { s with clk2 := ⟨⟨true, 0⟩, true, false, false⟩, inputs := [rawInput] }
    (s.mode = .run ∧ s.hook = .rise1 ∧ s.clk2.src.en = true ∧ s.clk2.level = false ∧ s.ctrl.heRise2 = true ∧
      s.inputs[s.clk2.src.idx.toNat]? = some { rawInput with reading := 1 } ∧ (1 : Word) ≠ 0) ∧
    (u.mode = .run ∧ u.hook = .rise1 ∧ u.clk2.src.en = true ∧ u.clk2.level = true ∧ u.ctrl.heFall2 = true ∧
      u.inputs[u.clk2.src.idx.toNat]? = some rawInput ∧ rawInput.reading = 0) := by decide +kernel

/-- AckOfAClockHookGoesOn, last part: a CLK1 hook with CLK2 at a steady level, and with a rise that no hook waits for. -/
theorem test_witness_AckOfAClockHookGoesOn_no_hook :
    let s : State := { running with
      hook := .fall1, phase := .clk1, clk2 := ⟨⟨true, 0⟩, true, false, false⟩,
      inputs := [{ rawInput with reading := 1 }], ctrl := { Ctrl.reset with heRise2 := true, heFall2 := true } }
    let u : State := { s with clk2 := ⟨⟨true, 0⟩, false, false, false⟩, ctrl := { Ctrl.reset with heFall2 := true } }
    (s.mode = .run ∧ s.clk2.src.en = true ∧ s.inputs[s.clk2.src.idx.toNat]? = some { rawInput with reading := 1 } ∧
      ¬(s.clk2.level = false) ∧ ¬((1 : Word) = 0)) ∧
    (u.mode = .run ∧ u.clk2.level = false ∧ ¬(u.ctrl.heRise2 = true) ∧ ¬(u.clk2.level = true)) := by decide +kernel

/-- QuantFindsTheNearestTone, QuantSearchTerminates, QuantStaysWithinAnOctave: a scale that is not empty, the default
table, and a search that ends. -/
theorem test_witness_Quant : (0x001 : BitVec 12) ≠ 0 ∧ Config.exampleParams.toneMv = .floorOfExact ∧
    quantSearch 0x001 (quantPos 500) 7 6 6 0 0 = some (0, 0) := by decide +kernel

/-- CommandsOutOfPhase: RUN for START, CONFIG for STEP and ACK. -/
theorem test_witness_CommandsOutOfPhase : running.mode ≠ .config ∧
    ¬(State.reset.mode = .run ∧ State.reset.phase = .idle ∧ State.reset.hook = .none) ∧
    ¬(running.mode = .run ∧ running.hook ≠ .none) := by decide

/-- HaltedIsSticky: an RD and a START in HALTED. -/
theorem test_witness_HaltedIsSticky :
    (withCmd halted 0x02000001).inbox = .cmd ⟨0x02000001, 7, 0, 0⟩ :: [] ∧
    (withCmd halted 0x02000001).mode = .halted := by decide

/-- RstRestoresTheResetState: RST in HALTED, with the counts of the reset state. -/
theorem test_witness_RstRestoresTheResetState :
    let s : State := { halted with inbox := [.rst] }
    s.inbox = .rst :: [] ∧ s.inputs.length = Config.exampleCounts.nIn ∧
    s.pots.length = Config.exampleCounts.nPot ∧ s.switches.length = Config.exampleCounts.nSw ∧
    s.outputs.length = Config.exampleCounts.nOut := by decide

/-- ResetRegisterValues: the last channel and output of the largest machine. -/
theorem test_witness_ResetRegisterValues :
    31 < ((State.resetWith ⟨32, 32, 32, 32⟩ Config.exampleParams).bank .switches).length ∧
    31 < (State.resetWith ⟨32, 32, 32, 32⟩ Config.exampleParams).outputs.length := by decide +kernel

/-- StartAfterReset: counts without a pot, and with one. -/
theorem test_witness_StartAfterReset : (⟨1, 0, 0, 1⟩ : Counts).nPot = 0 ∧ Config.exampleCounts.nPot ≠ 0 := by decide

/-- The invariant in RUN while the RISE1 hook waits. -/
theorem test_running_inv : RunInv { running with
    hook := .rise1, phase := .clk1, clk1 := ⟨⟨true, 0⟩, true, true, false⟩ } := by
  refine ⟨by decide, by unfold sized; decide +kernel, .inr (.inl ⟨rfl, .inr (.inr (.inl ⟨rfl, .inl rfl⟩))⟩),
    by unfold faultRecordOk; decide, by unfold busIdle; decide, by unfold clockOk; decide, by unfold clockOk; decide,
    ?_, fun _ => test_running_configOk, fun _ _ => ⟨rfl, rfl⟩⟩
  intro b ch h
  have : ch.reading = 0 ∧ ch.hist = Hist.reset := by
    cases b <;> simp [State.bank, running, State.reset, State.resetWith, Config.exampleCounts] at h <;> rw [h] <;>
      exact ⟨rfl, rfl⟩
  refine ⟨?_, by rw [this.2]; unfold histNonneg; decide, fun h => by simp [running] at h⟩
  unfold readingInRange
  rw [this.1]
  cases b <;> simp [s32]

/-- StepKeepsTheInvariant, StepAlwaysAnswers: that state, with an ACK that ends the cycle. -/
theorem test_witness_StepKeepsTheInvariant :
    RunInv { running with hook := .rise1, phase := .clk1, clk1 := ⟨⟨true, 0⟩, true, true, false⟩ } ∧
    (after (issue { running with hook := .rise1, phase := .clk1, clk1 := ⟨⟨true, 0⟩, true, true, false⟩ }
      0x06000000 0 0 0)).map (fun t => (t.mode, t.phase, t.hook)) = some (.run, .idle, .none) :=
  ⟨test_running_inv, by decide +kernel⟩

/-- ConfigurationIsFrozen, TraceIsAppendOnly, ParametersAreConstant: a STEP of `running`. -/
theorem test_witness_ConfigurationIsFrozen :
    (withCmd running 0x05000000).mode ≠ .config ∧
    (withCmd running 0x05000000).inbox = [.cmd ⟨0x05000000, 7, 0, 0⟩] ∧
    (after (step (withCmd running 0x05000000))).isSome = true := by decide +kernel

/-- OnlyStepAndAckTouchTheCycle, OnlyWrChangesDesired, TraceIsAppendOnly (its second clause): a START. -/
theorem test_witness_OnlyStepAndAckTouchTheCycle : Instr.start.isHost = true ∧ Instr.start ≠ .step ∧
    Instr.start ≠ .ack ∧ (after (exec .start State.reset)).isSome = true := by decide +kernel

/-- NeverIssuedOperandsAreRefused: the first channel and output that the machine does not have. -/
theorem test_witness_NeverIssuedOperandsAreRefused :
    bankOfCode 3 = some .switches ∧ (running.bank .switches).length ≤ (1 : BitVec 16).toNat ∧
    running.outputs.length ≤ (1 : BitVec 16).toNat := by decide +kernel

end Sys2Proof.Tests
end

section
/-! SUPPORT. What the instructions and the steps of the block may change of the configuration, of DESIRED and of the
bus trace (10_state.md R41, R43, R44), and the statements of 10_state.md about them. -/

namespace Sys2Proof.Machine

/-! ### Two frames

Most operations leave the outputs and the trace as they stand; a commit and a transfer may append to the trace. Both
leave every configuration register and every DESIRED alone. -/

/-- From `s` to `t` no configuration register, no output and no trace event has changed. -/
structure SilentFrame (s t : State) : Prop where
  config : t.configView = s.configView
  outputs : t.outputs = s.outputs
  trace : t.trace = s.trace

/-- From `s` to `t` no configuration register and no DESIRED has changed, and the trace has only grown. -/
structure CycleFrame (s t : State) : Prop where
  config : t.configView = s.configView
  desired : t.outputs.map (·.desired) = s.outputs.map (·.desired)
  trace : ∃ l, t.trace = s.trace ++ l

theorem SilentFrame.refl (s : State) : SilentFrame s s := ⟨rfl, rfl, rfl⟩

theorem SilentFrame.trans {s t u : State} (h : SilentFrame s t) (h' : SilentFrame t u) : SilentFrame s u :=
  ⟨h'.config.trans h.config, h'.outputs.trans h.outputs, h'.trace.trans h.trace⟩

theorem CycleFrame.trans {s t u : State} (h : CycleFrame s t) (h' : CycleFrame t u) : CycleFrame s u := by
  obtain ⟨l, hl⟩ := h.trace
  obtain ⟨l', hl'⟩ := h'.trace
  exact ⟨h'.config.trans h.config, h'.desired.trans h.desired, l ++ l', by rw [hl', hl, List.append_assoc]⟩

theorem SilentFrame.cycle {s t : State} (h : SilentFrame s t) : CycleFrame s t :=
  ⟨h.config, by rw [h.outputs], [], by rw [h.trace, List.append_nil]⟩

/-! ### Updates -/

theorem SilentFrame.setRes (s : State) (w : Word) : SilentFrame s (s.setRes w) := ⟨rfl, rfl, rfl⟩
theorem SilentFrame.setHook (s : State) (h : Hook) : SilentFrame s (s.setHook h) := ⟨rfl, rfl, rfl⟩
theorem SilentFrame.setPhase (s : State) (p : Phase) : SilentFrame s (s.setPhase p) := ⟨rfl, rfl, rfl⟩
theorem SilentFrame.setPins (s : State) (p : Pins) : SilentFrame s (s.setPins p) := ⟨rfl, rfl, rfl⟩
theorem SilentFrame.takeFree (s : State) (n : Nat) : SilentFrame s (s.takeFree n) := ⟨rfl, rfl, rfl⟩
theorem SilentFrame.raise (s : State) (code : FaultCode) (info : Word) : SilentFrame s (s.raise code info) :=
  ⟨rfl, rfl, rfl⟩

theorem SilentFrame.afterSample (s : State) : SilentFrame s s.afterSample := by
  unfold State.afterSample; split <;> exact ⟨rfl, rfl, rfl⟩

/-- Replacing a channel by one of the same configuration (READING and HIST are none, 10_state.md R17). -/
theorem SilentFrame.setChan {s : State} {b : Bank} {c : Nat} {ch ch' : Channel} (h : (s.bank b)[c]? = some ch)
    (hc : ch'.configView = ch.configView) : SilentFrame s (s.setChan b c ch') := by
  refine ⟨?_, by simp, by simp⟩
  cases b <;> simp only [State.bank_inputs, State.bank_pots, State.bank_switches] at h <;>
    simp [State.configView, map_set_of_eq _ h hc]

/-- Replacing a detector by one of the same source (LEVELn and EVENTS are no configuration, 10_state.md R17). -/
theorem SilentFrame.setClock {s : State} {n : Bool} {c : Clock} (h : c.src = (s.clock n).src) :
    SilentFrame s (s.setClock n c) := by
  refine ⟨?_, by simp, by simp⟩
  cases n <;> simpa [State.configView] using h

/-- Replacing an output by one of the same ANALOG and DESIRED. -/
theorem CycleFrame.setOutput {s : State} {o : Nat} {out out' : Output} (h : s.outputs[o]? = some out)
    (ha : out'.analog = out.analog) (hd : out'.desired = out.desired) : CycleFrame s (s.setOutput o out') where
  config := by simp [State.configView, map_set_of_eq (·.analog) h ha]
  desired := by simp [map_set_of_eq (·.desired) h hd]
  trace := ⟨[], (List.append_nil _).symm⟩

theorem CycleFrame.emit (s : State) (e : BusEvent) : CycleFrame s (s.emit e) :=
  ⟨rfl, rfl, [_], rfl⟩

theorem CycleFrame.dacTransfer (k : Chip) (w : Frame) (s : State) : CycleFrame s (dacTransfer k w s) :=
  ⟨rfl, rfl, [_], rfl⟩

/-! ### Control -/

theorem CycleFrame.unlessHalted {s t : State} {rest : State → State} (h : CycleFrame s t)
    (hr : CycleFrame t (rest t)) : CycleFrame s (t.unlessHalted rest) := by
  unfold State.unlessHalted
  split
  · exact h
  · exact h.trans hr

theorem CycleFrame.unlessHooked {s t : State} {rest : State → State} (h : CycleFrame s t)
    (hr : CycleFrame t (rest t)) : CycleFrame s (t.unlessHooked rest) := by
  unfold State.unlessHooked
  split
  · exact h
  · exact h.trans hr

/-- A host command runs its rule or, turned away, has no effect but on RES, MODE and the fault record
(60_exceptions.md R218, R220). -/
theorem hostCommand_silent_or_rule {s t : State} {allowed : Bool} {rule : State → State}
    (h : s.hostCommand allowed rule = .next t) : SilentFrame s t ∨ s.mode ≠ .halted ∧ t = rule s := by
  rcases State.hostCommand_cases h with ⟨-, rfl⟩ | ⟨hm, -, rfl⟩ | ⟨-, -, rfl⟩
  · exact .inl (.setRes s 0)
  · exact .inr ⟨hm, rfl⟩
  · exact .inl (.raise s _ _)

theorem SilentFrame.hostCommand {s t : State} {allowed : Bool} {rule : State → State}
    (h : s.hostCommand allowed rule = .next t) (hr : SilentFrame s (rule s)) : SilentFrame s t := by
  rcases hostCommand_silent_or_rule h with hs | ⟨-, rfl⟩
  · exact hs
  · exact hr

/-- A host command that only answers. -/
theorem SilentFrame.hostCommand_setRes {s t : State} {allowed : Bool} {answer : State → Word}
    (h : s.hostCommand allowed (fun u => u.setRes (answer u)) = .next t) : SilentFrame s t :=
  .hostCommand h (.setRes s (answer s))

theorem CycleFrame.hostCommand {s t : State} {allowed : Bool} {rule : State → State}
    (h : s.hostCommand allowed rule = .next t) (hr : CycleFrame s (rule s)) : CycleFrame s t := by
  rcases hostCommand_silent_or_rule h with hs | ⟨-, rfl⟩
  · exact hs.cycle
  · exact hr

/-! ### The rules of the host commands that compute -/

theorem convRule_silent (s : State) : SilentFrame s (convRule s) := by
  unfold convRule
  split
  · exact .raise s _ _
  · split
    · exact .raise s _ _
    · split
      · exact .setRes s _
      · exact .raise s _ _

theorem pctRule_silent (rev : Bool) (s : State) : SilentFrame s (pctRule rev s) := by
  unfold pctRule
  split
  · exact .setRes s _
  · exact .raise s _ _

theorem quantRule_silent (s : State) : SilentFrame s (quantRule s) := by
  unfold quantRule
  dsimp only
  split
  · exact .setRes s _
  · exact .raise s _ _

theorem enterRun_silent (s : State) : SilentFrame s (enterRun s) := by
  unfold enterRun
  dsimp only
  split <;> exact ⟨rfl, rfl, rfl⟩

theorem startRule_silent (s : State) : SilentFrame s (startRule s) := by
  unfold startRule
  split
  · exact .raise s _ _
  · exact enterRun_silent s

theorem execRd_silent {a : Addr} {s t : State} (h : execRd a s = .next t) : SilentFrame s t := by
  cases h
  split
  · exact .setRes s _
  · split
    · exact .setRes s _
    · exact .raise s _ _

/-! ### Conditioning and the detectors -/

theorem smoothChan_silent (b : Bank) (c : Nat) (mv : Word) (s : State) : SilentFrame s (smoothChan b c mv s) := by
  cases hc : (s.bank b)[c]? with
  | none => simpa [smoothChan, hc] using SilentFrame.refl s
  | some ch => rw [smoothChan_of_some mv hc]; exact .setChan hc rfl

/-- U_COND writes READING and HIST alone, raised or not (41_signal_conditioner.md R131). -/
theorem condChan_silent (b : Bank) (c : Nat) (s : State) : SilentFrame s (condChan b c s) := by
  cases hc : (s.bank b)[c]? with
  | none => rw [condChan_of_absent hc]; exact .refl s
  | some ch =>
    have ha : (s.afterSample.bank b)[c]? = some ch := by simpa using hc
    cases hd : conditioned s.params b s.sample ch with
    | some ch' =>
      rw [condChan_of_conditioned hc hd]
      exact (SilentFrame.afterSample s).trans (.setChan ha (conditioned_config hd))
    | none =>
      rcases condChan_of_raised hc hd with ⟨code, -, e⟩ | ⟨-, -, mv, -, e⟩ <;> rw [e]
      · exact (SilentFrame.afterSample s).trans (.raise _ _ _)
      · refine (SilentFrame.afterSample s).trans (.trans (.setChan ha ?_) (.raise _ _ _))
        rfl

theorem condBank_silent (b : Bank) (s : State) : SilentFrame s (condBank b s) :=
  condBank_induct (fun _ t => SilentFrame s t) (.refl s) (fun _ _ _ h => h)
    (fun k t _ _ h => h.trans (condChan_silent b k t))

theorem clearEvents_silent (s : State) : SilentFrame s (clearEvents s) := ⟨rfl, rfl, rfl⟩

theorem clkdet_silent (second : Bool) (s : State) : SilentFrame s (clkdet second s) := by
  rcases clkdet_cases second s with e | ⟨-, ⟨-, e⟩ | ⟨-, e⟩⟩ <;> rw [e]
  · exact .refl s
  · refine .trans (.setClock ?_) (.setHook _ _)
    rfl
  · refine .trans (.setClock ?_) (.setHook _ _)
    rfl

/-! ### Committing -/

theorem writeOutput_cycleFrame {s : State} {o : Nat} {out : Output} (h : s.outputs[o]? = some out) :
    CycleFrame s (writeOutput o out s) := by
  unfold writeOutput
  split
  · split
    · exact (CycleFrame.dacTransfer _ _ s).trans (.setOutput (out := out) h rfl rfl)
    · exact (SilentFrame.refl s).cycle
  · exact (CycleFrame.emit s _).trans (.setOutput (out := out) h rfl rfl)

theorem commitOutput_cycleFrame (o : Nat) (s : State) : CycleFrame s (commitOutput o s) := by
  cases h : s.outputs[o]? with
  | none => simpa [commitOutput, h] using (SilentFrame.refl s).cycle
  | some out =>
    rcases commitOutput_cases h with ⟨-, e⟩ | ⟨-, e⟩ <;> rw [e]
    · exact (SilentFrame.refl s).cycle
    · exact writeOutput_cycleFrame h

theorem commitAll_cycleFrame (s : State) : CycleFrame s (commitAll s) :=
  commitAll_induct (fun _ t => CycleFrame s t) (SilentFrame.refl s).cycle
    (fun k t _ h => h.trans (commitOutput_cycleFrame k t))

/-! ### The cycle, phase by phase from its end (45_step_orchestrator.md R186) -/

theorem endCycle_silent (s : State) : SilentFrame s (endCycle s) := by
  unfold endCycle
  split <;> exact ⟨rfl, rfl, rfl⟩

theorem seqCommit_cycleFrame (s : State) : CycleFrame s (seqCommit s) :=
  ((SilentFrame.setPhase s .commit).cycle.trans (commitAll_cycleFrame _)).trans (endCycle_silent _).cycle

theorem seqStepHook_cycleFrame (s : State) : CycleFrame s (seqStepHook s) := by
  unfold seqStepHook
  split
  · exact ((SilentFrame.setPhase s .stepHook).trans (.setHook _ .step)).cycle
  · exact seqCommit_cycleFrame s

theorem seqClk2_cycleFrame (s : State) : CycleFrame s (seqClk2 s) :=
  ((SilentFrame.setPhase s .clk2).trans (clkdet_silent true _)).cycle.unlessHooked (seqStepHook_cycleFrame _)

theorem seqClk1_cycleFrame (s : State) : CycleFrame s (seqClk1 s) :=
  ((SilentFrame.setPhase s .clk1).trans (clkdet_silent false _)).cycle.unlessHooked (seqClk2_cycleFrame _)

theorem seqCondSw_cycleFrame (s : State) : CycleFrame s (seqCondSw s) :=
  ((SilentFrame.setPhase s .condSw).trans (condBank_silent .switches _)).cycle.unlessHalted (seqClk1_cycleFrame _)

theorem seqCondPot_cycleFrame (s : State) : CycleFrame s (seqCondPot s) :=
  ((SilentFrame.setPhase s .condPot).trans (condBank_silent .pots _)).cycle.unlessHalted (seqCondSw_cycleFrame _)

theorem seqCondIn_cycleFrame (s : State) : CycleFrame s (seqCondIn s) :=
  (((SilentFrame.setPhase s .condIn).trans (clearEvents_silent _)).trans (condBank_silent .inputs _)).cycle.unlessHalted
    (seqCondPot_cycleFrame _)

theorem stepRule_cycleFrame (s : State) : CycleFrame s (stepRule s) :=
  (SilentFrame.setRes s 0).cycle.trans (seqCondIn_cycleFrame _)

theorem resumeAfter_cycleFrame (h : Hook) (s : State) : CycleFrame s (resumeAfter h s) := by
  cases h with
  | none => exact (SilentFrame.refl s).cycle
  | start => exact (SilentFrame.setPhase s .idle).cycle
  | rise1 => exact seqClk2_cycleFrame s
  | fall1 => exact seqClk2_cycleFrame s
  | rise2 => exact seqStepHook_cycleFrame s
  | fall2 => exact seqStepHook_cycleFrame s
  | step => exact seqCommit_cycleFrame s

theorem ackRule_cycleFrame (s : State) : CycleFrame s (ackRule s) :=
  ((SilentFrame.setRes s 0).trans (.setHook _ .none)).cycle.trans (resumeAfter_cycleFrame s.hook _)

/-- A frame by itself is no transfer: the trace gains no event (10_state.md R41, log entry 6). -/
theorem shiftFrame_silent (w : Frame) (s : State) : SilentFrame s (shiftFrame w s) :=
  (SilentFrame.setPins s _).trans (.takeFree _ _)

/-! ### WR -/

/-- All that WR's rule can do (40_host_interface.md R82): it raises, or stores in a register that is not read-only, one
of the configuration only outside RUN. -/
theorem writeRule_cases (a : Addr) (s : State) :
    SilentFrame s (writeRule a s) ∨
    ∃ r, regAccess r ≠ .readOnly ∧ (regAccess r = .config → s.mode ≠ .run) ∧
      writeRule a s = (s.writeReg r s.opa).setRes 0 := by
  unfold writeRule
  split
  · exact .inl (.raise s _ _)
  · rename_i r _
    cases hr : regAccess r with
    | readOnly => exact .inl (.raise s _ _)
    | desired => exact .inr ⟨r, by simp [hr], by simp [hr], rfl⟩
    | config =>
      by_cases hm : s.mode = .run
      · simpa [hm] using Or.inl (SilentFrame.raise s _ _)
      · exact .inr ⟨r, by simp [hr], fun _ => hm, by simp [hm]⟩

theorem State.writeReg_trace (s : State) (r : Reg) (x : Word) : (s.writeReg r x).trace = s.trace := by
  cases r with
  | status | fault | faultInfo | events | params | ctrl => rfl
  | clkSrc n => exact State.setClock_trace s n _
  | chan b c r =>
    cases h : (s.bank b)[c]? with
    | none => simp [State.writeReg, h]
    | some ch => simp [State.writeReg, h]
  | out o r =>
    cases h : s.outputs[o]? with
    | none => simp [State.writeReg, h]
    | some out => simp [State.writeReg, h]

/-- Only the registers of the configuration hold the configuration (10_state.md R43). -/
theorem State.writeReg_configView {s : State} {r : Reg} (h : regAccess r ≠ .config) (x : Word) :
    (s.writeReg r x).configView = s.configView := by
  cases r with
  | status | fault | faultInfo | events | params => rfl
  | ctrl | clkSrc => exact absurd rfl h
  | chan b c r =>
    cases r with
    | reading =>
      cases hc : (s.bank b)[c]? with
      | none => simp [State.writeReg, hc]
      | some ch =>
        have hs : SilentFrame s (s.setChan b c (writeChanReg ch .reading x)) := .setChan hc rfl
        simpa [State.writeReg, hc] using hs.config
    | _ => exact absurd rfl h
  | out o r =>
    cases r with
    | octl => exact absurd rfl h
    | desired =>
      cases ho : s.outputs[o]? with
      | none => simp [State.writeReg, ho]
      | some out => simp [State.writeReg, ho, State.configView, writeOutReg, map_set_of_eq (·.analog) ho]

/-! ### Every instruction -/

theorem execUCond_eq_next {k : BitVec 2} {c : BitVec 16} {s t : State} (h : execUCond k c s = .next t) :
    ∃ b, t = condChan b c.toNat s := by
  unfold execUCond at h
  split at h
  · split at h
    · cases h; exact ⟨_, rfl⟩
    · cases h
  · cases h

theorem execUSmooth_eq_next {k : BitVec 2} {c : BitVec 16} {s t : State} (h : execUSmooth k c s = .next t) :
    ∃ b, t = smoothChan b c.toNat s.opa s := by
  unfold execUSmooth at h
  split at h
  · split at h
    · cases h; exact ⟨_, rfl⟩
    · cases h
  · cases h

theorem execUClkdet_eq_next {second : Bool} {s t : State} (h : execUClkdet second s = .next t) :
    t = clkdet second s := by
  unfold execUClkdet at h
  split at h <;> cases h
  rfl

theorem execUCommit_eq_next {o : BitVec 16} {s t : State} (h : execUCommit o s = .next t) :
    t = commitOutput o.toNat s := by
  unfold execUCommit at h
  split at h <;> cases h
  rfl

theorem execUHook_eq_next {k : BitVec 3} {s t : State} (h : execUHook k s = .next t) :
    ∃ kind, t = s.requestHook kind := by
  unfold execUHook at h
  split at h <;> cases h
  exact ⟨_, rfl⟩

/-- The instructions that may append to the bus trace (10_state.md R41). -/
def mayAppend (i : Instr) : Prop :=
  (∃ k, i = .uDacxfer k) ∨ (∃ o, i = .uCommit o) ∨ i = .step ∨ i = .ack

/-- All that an instruction can do to the configuration, to DESIRED and to the trace: nothing, a write of WR, or the
appends of a commit or a transfer. -/
theorem exec_cases {i : Instr} {s t : State} (h : exec i s = .next t) :
    SilentFrame s t ∨
    (∃ a r, i = .wr a ∧ regAccess r ≠ .readOnly ∧ (regAccess r = .config → s.mode = .config) ∧
      t = (s.writeReg r s.opa).setRes 0) ∨
    (mayAppend i ∧ CycleFrame s t) := by
  cases i with
  | nop => exact .inl (.hostCommand_setRes (answer := fun _ => 0) h)
  | rd a => exact .inl (execRd_silent h)
  | wr a =>
    rcases hostCommand_silent_or_rule h with hs | ⟨hm, rfl⟩
    · exact .inl hs
    · rcases writeRule_cases a s with hs | ⟨r, hr, hc, e⟩
      · exact .inl hs
      · refine .inr (.inl ⟨a, r, rfl, hr, fun hcr => ?_, e⟩)
        have hrun := hc hcr
        cases hmode : s.mode with
        | config => rfl
        | run => exact absurd hmode hrun
        | halted => exact absurd hmode hm
  | start => exact .inl (.hostCommand h (startRule_silent s))
  | step => exact .inr (.inr ⟨.inr (.inr (.inl rfl)), .hostCommand h (stepRule_cycleFrame s)⟩)
  | ack => exact .inr (.inr ⟨.inr (.inr (.inr rfl)), .hostCommand h (ackRule_cycleFrame s)⟩)
  | conv => exact .inl (.hostCommand h (convRule_silent s))
  | thresh => exact .inl (.hostCommand_setRes (answer := fun u => threshVal u.opa u.opb) h)
  | pct rev => exact .inl (.hostCommand h (pctRule_silent rev s))
  | quant => exact .inl (.hostCommand h (quantRule_silent s))
  | dacenc sel => exact .inl (.hostCommand_setRes (answer := fun u => (enc (s32 u.opa) sel).setWidth 32) h)
  | uCond k c => obtain ⟨b, rfl⟩ := execUCond_eq_next h; exact .inl (condChan_silent b _ s)
  | uSmooth k c => obtain ⟨b, rfl⟩ := execUSmooth_eq_next h; exact .inl (smoothChan_silent b _ _ s)
  | uClkdet second => rw [execUClkdet_eq_next h]; exact .inl (clkdet_silent second s)
  | uCommit o =>
    rw [execUCommit_eq_next h]
    exact .inr (.inr ⟨.inr (.inl ⟨o, rfl⟩), commitOutput_cycleFrame _ s⟩)
  | uDacxfer k => cases h; exact .inr (.inr ⟨.inl ⟨k, rfl⟩, .dacTransfer _ _ s⟩)
  | uHook k => obtain ⟨kind, rfl⟩ := execUHook_eq_next h; exact .inl (.setHook s kind)
  | dacFrame sel gaN code => cases h; exact .inl (shiftFrame_silent _ s)

/-! ### Every step -/

/-- The state in which an instruction is performed: its input taken, its latches written (10_state.md R18). A frame
leaves the latches at what they hold. -/
def State.received (s : State) (rest : List Input) (c : Cmd) : State := { s with inbox := rest }.latch c

theorem State.received_silent (s : State) (rest : List Input) (c : Cmd) : SilentFrame s (s.received rest c) :=
  ⟨rfl, rfl, rfl⟩

theorem State.received_mode (s : State) (rest : List Input) (c : Cmd) : (s.received rest c).mode = s.mode := rfl

theorem illegalCw_silent (s : State) : SilentFrame s (illegalCw s) := by
  unfold illegalCw
  split
  · exact .setRes s 0
  · exact .raise s _ _

/-- All that a step can do: wait, reset, turn away an illegal word, or perform an instruction. -/
theorem step_cases {s t : State} (h : step s = .next t) :
    (s.inbox = [] ∧ t = s) ∨
    (∃ rest, s.inbox = .rst :: rest ∧ t = { s with inbox := rest }.rst) ∨
    (∃ rest c, t = illegalCw (s.received rest c)) ∨
    (∃ rest c i, exec i (s.received rest c) = .next t) := by
  unfold step fetch at h
  cases hin : s.inbox with
  | nil => simp only [hin] at h; cases h; exact .inl ⟨rfl, rfl⟩
  | cons x rest =>
    cases x with
    | rst => simp only [hin] at h; cases h; exact .inr (.inl ⟨rest, rfl, rfl⟩)
    | cmd c =>
      simp only [hin, fetchHost] at h
      cases hd : decodeCmd c.cw with
      | error e => simp only [hd] at h; cases h; exact .inr (.inr (.inl ⟨rest, c, rfl⟩))
      | ok i =>
        cases hh : i.isHost <;> simp only [hd, hh] at h
        · cases h; exact .inr (.inr (.inl ⟨rest, c, rfl⟩))
        · exact .inr (.inr (.inr ⟨rest, c, i, h⟩))
    | micro cw opa =>
      simp only [hin, fetchMicro] at h
      cases hd : decodeCmd cw with
      | error e => simp [hd] at h
      | ok i =>
        cases hh : i.isHost <;> simp only [hd, hh] at h
        · exact .inr (.inr (.inr ⟨rest, ⟨cw, opa, s.opb, s.opc⟩, i, h⟩))
        · cases h
    | frame w =>
      simp only [hin, fetchFrame] at h
      cases hd : decodeFrame w with
      | error e => simp [hd] at h
      | ok i => simp only [hd] at h; exact .inr (.inr (.inr ⟨rest, ⟨s.cw, s.opa, s.opb, s.opc⟩, i, h⟩))

/-- A step as the claims below need it: the block's frames hold, but for RST and for the write of a WR, which finds
the configuration and MODE as they were. -/
theorem step_frame_cases {s t : State} (h : step s = .next t) :
    CycleFrame s t ∨
    (∃ rest, s.inbox = .rst :: rest ∧ t = { s with inbox := rest }.rst) ∨
    (∃ u r, SilentFrame s u ∧ (regAccess r = .config → s.mode = .config) ∧
      t = (u.writeReg r u.opa).setRes 0) := by
  rcases step_cases h with ⟨-, rfl⟩ | hrst | ⟨rest, c, rfl⟩ | ⟨rest, c, i, hi⟩
  · exact .inl (SilentFrame.refl _).cycle
  · exact .inr (.inl hrst)
  · exact .inl ((s.received_silent rest c).trans (illegalCw_silent _)).cycle
  · have hu := s.received_silent rest c
    rcases exec_cases hi with hs | ⟨-, r, -, -, hm, e⟩ | ⟨-, hc⟩
    · exact .inl (hu.trans hs).cycle
    · exact .inr (.inr ⟨_, r, hu, hm, e⟩)
    · exact .inl (hu.cycle.trans hc)

/-! ### The counts -/

/-- The machine is the same one: the parameters and the channel counts of 00_scope.md R7. -/
structure SameMachine (s t : State) : Prop where
  params : t.params = s.params
  bank : ∀ b, (t.bank b).length = (s.bank b).length
  outputs : t.outputs.length = s.outputs.length

theorem SameMachine.trans {s t u : State} (h : SameMachine s t) (h' : SameMachine t u) : SameMachine s u :=
  ⟨h'.params.trans h.params, fun b => (h'.bank b).trans (h.bank b), h'.outputs.trans h.outputs⟩

/-- The configuration shows the parameters and the counts. -/
theorem SameMachine.of_configView {s t : State} (h : t.configView = s.configView) : SameMachine s t where
  params := congrArg Configuration.params h
  bank b := by
    cases b with
    | inputs => simpa [State.configView] using congrArg (·.inputs.length) h
    | pots => simpa [State.configView] using congrArg (·.pots.length) h
    | switches => simpa [State.configView] using congrArg (·.switches.length) h
  outputs := by simpa [State.configView] using congrArg (·.analog.length) h

theorem SameMachine.rst (s : State) (rest : List Input) : SameMachine s { s with inbox := rest }.rst where
  params := rfl
  bank b := by cases b <;> simp [State.rst, State.bank]
  outputs := by simp [State.rst]

theorem SameMachine.setChan (s : State) (b : Bank) (c : Nat) (ch : Channel) : SameMachine s (s.setChan b c ch) where
  params := by simp
  bank b' := by
    by_cases hb : b' = b
    · subst hb; simp
    · rw [State.bank_setChan_ne s c ch hb]
  outputs := by simp

theorem SameMachine.writeReg (s : State) (r : Reg) (x : Word) : SameMachine s (s.writeReg r x) := by
  have hrefl : SameMachine s s := ⟨rfl, fun _ => rfl, rfl⟩
  cases r with
  | status | fault | faultInfo | events | params => exact hrefl
  | ctrl => exact ⟨rfl, fun b => by simp [State.writeReg], rfl⟩
  | clkSrc n => exact ⟨by simp [State.writeReg], fun b => by simp [State.writeReg], by simp [State.writeReg]⟩
  | chan b c r =>
    unfold State.writeReg
    simp only
    split
    · exact .setChan s b c _
    · exact hrefl
  | out o r =>
    unfold State.writeReg
    simp only
    split
    · exact ⟨rfl, fun b => by simp, by simp⟩
    · exact hrefl

theorem step_sameMachine {s t : State} (h : step s = .next t) : SameMachine s t := by
  rcases step_frame_cases h with hc | ⟨rest, -, rfl⟩ | ⟨u, r, hu, -, rfl⟩
  · exact .of_configView hc.config
  · exact .rst s rest
  · have hw : SameMachine s (u.writeReg r u.opa) := (SameMachine.of_configView hu.config).trans (.writeReg u r _)
    exact hw.trans (.of_configView (SilentFrame.setRes _ 0).config)

/-- PARAMS shows the counts (10_state.md R29). -/
theorem SameMachine.paramsWord {s t : State} (h : SameMachine s t) : paramsWord t = paramsWord s := by
  have hi := h.bank .inputs
  have hp := h.bank .pots
  have hw := h.bank .switches
  simp only [State.bank_inputs, State.bank_pots, State.bank_switches] at hi hp hw
  unfold Machine.paramsWord
  rw [hi, hp, hw, h.outputs]

/-! ### The statements -/

/-- Settles O55: of the steps from RUN and HALTED only a WR could write a configuration register, and it does so in
CONFIG alone. -/
theorem configurationIsFrozen : Obligations.ConfigurationIsFrozen := by
  intro s t hm hrst h
  rcases step_frame_cases h with hc | ⟨rest, hin, -⟩ | ⟨u, r, hu, hr, rfl⟩
  · exact hc.config
  · exact absurd hin (hrst rest)
  · have hw : (u.writeReg r u.opa).configView = u.configView := State.writeReg_configView (fun e => hm (hr e)) _
    exact ((SilentFrame.setRes _ 0).config.trans hw).trans hu.config

/-- Settles O56: a step appends by its commits and transfers, and neither RST nor a register write touches the
trace. -/
theorem traceIsAppendOnly : Obligations.TraceIsAppendOnly := by
  refine ⟨fun s t h => ?_, fun i s t hx hc hs ha h => ?_⟩
  · rcases step_frame_cases h with hf | ⟨rest, -, rfl⟩ | ⟨u, r, hu, -, rfl⟩
    · exact hf.trace
    · exact ⟨[], (List.append_nil _).symm⟩
    · exact ⟨[], by rw [State.setRes_trace, State.writeReg_trace, hu.trace, List.append_nil]⟩
  · rcases exec_cases h with hf | ⟨a, r, -, -, -, rfl⟩ | ⟨⟨k, e⟩ | ⟨o, e⟩ | e | e, -⟩
    · exact hf.trace
    · rw [State.setRes_trace, State.writeReg_trace]
    · exact absurd e (hx k)
    · exact absurd e (hc o)
    · exact absurd e hs
    · exact absurd e ha

/-- Settles O57: every step goes on with the same machine. -/
theorem parametersAreConstant : Obligations.ParametersAreConstant := by
  intro s t h
  have hm := step_sameMachine h
  exact ⟨hm.params, hm.bank .inputs, hm.bank .pots, hm.bank .switches, hm.outputs, hm.paramsWord⟩

/-- Settles O59: the two frames keep DESIRED, and only WR steps outside them. -/
theorem onlyWrChangesDesired : Obligations.OnlyWrChangesDesired := by
  intro i s t hwr h
  rcases exec_cases h with hf | ⟨a, r, e, -⟩ | ⟨-, hf⟩
  · exact hf.cycle.desired
  · exact absurd e (hwr a)
  · exact hf.desired

end Sys2Proof.Machine
end

section
/-! SUPPORT. What a read of a register answers, as a number: words packed of fields, the address of every register, and
the statements of 10_state.md about the register words and the draws. -/

namespace Sys2Proof.Machine

/-! ### Words packed of fields -/

/-- The word `w` is the number `v`, within its low `k` bits. -/
structure Packs (w : Word) (k v : Nat) : Prop where
  value : w.toNat = v
  bound : v < 2 ^ k

/-- A field that lies within the word, as a number. -/
theorem toNat_fieldAt {n k : Nat} (x : BitVec n) (h : k + n ≤ 32) : (fieldAt 32 x k).toNat = 2 ^ k * x.toNat := by
  have hx : x.toNat < 2 ^ n := x.isLt
  have hw : 2 ^ n * 2 ^ k ≤ 2 ^ 32 := by
    rw [← Nat.pow_add]; exact Nat.pow_le_pow_right (by decide) (by omega)
  have hn : 2 ^ n ≤ 2 ^ 32 := Nat.pow_le_pow_right (by decide) (by omega)
  have hlt : x.toNat * 2 ^ k < 2 ^ 32 := lt_of_lt_of_le (Nat.mul_lt_mul_of_pos_right hx (Nat.two_pow_pos k)) hw
  rw [fieldAt, BitVec.toNat_shiftLeft, BitVec.toNat_setWidth, Nat.mod_eq_of_lt (lt_of_lt_of_le hx hn),
    Nat.shiftLeft_eq, Nat.mod_eq_of_lt hlt, Nat.mul_comm]

theorem Packs.first {n : Nat} (x : BitVec n) (h : n ≤ 32) : Packs (fieldAt 32 x 0) n x.toNat where
  value := by rw [toNat_fieldAt x (by omega)]; simp
  bound := x.isLt

/-- A field above all those packed so far adds its value at its place. -/
theorem Packs.field {w : Word} {k v : Nat} (hw : Packs w k v) {n : Nat} (x : BitVec n) (j : Nat) (hj : k ≤ j)
    (h : j + n ≤ 32) : Packs (w ||| fieldAt 32 x j) (j + n) (v + 2 ^ j * x.toNat) := by
  have hv : v < 2 ^ j := lt_of_lt_of_le hw.bound (Nat.pow_le_pow_right (by decide) hj)
  constructor
  · rw [BitVec.toNat_or, hw.value, toNat_fieldAt x h, Nat.or_comm, ← Nat.two_pow_add_eq_or_of_lt hv, Nat.add_comm]
  · have hx : x.toNat + 1 ≤ 2 ^ n := x.isLt
    calc v + 2 ^ j * x.toNat < 2 ^ j + 2 ^ j * x.toNat := by omega
      _ = 2 ^ j * (x.toNat + 1) := by rw [Nat.mul_add, Nat.mul_one, Nat.add_comm]
      _ ≤ 2 ^ j * 2 ^ n := Nat.mul_le_mul_left _ hx
      _ = 2 ^ (j + n) := (Nat.pow_add 2 j n).symm

theorem Packs.firstBit (b : Bool) : Packs (bitAt 32 b 0) 1 b.toNat := by
  simpa [bitAt] using Packs.first (BitVec.ofBool b) (by decide)

theorem Packs.bit {w : Word} {k v : Nat} (hw : Packs w k v) (b : Bool) (j : Nat) (hj : k ≤ j) (h : j + 1 ≤ 32) :
    Packs (w ||| bitAt 32 b j) (j + 1) (v + 2 ^ j * b.toNat) := by
  simpa [bitAt] using hw.field (BitVec.ofBool b) j hj h

/-! ### The words of the registers -/

theorem statusWord_toNat (s : State) : (statusWord s).toNat =
    (modeCode s.mode).toNat + 16 * (hookCode s.hook).toNat + 256 * (phaseCode s.phase).toNat :=
  (((Packs.first (modeCode s.mode) (by decide)).field (hookCode s.hook) 4 (by decide) (by decide)).field
    (phaseCode s.phase) 8 (by decide) (by decide)).value

theorem faultWord_toNat (s : State) : (faultWord s).toNat = (faultCodeCode s.faultCode).toNat :=
  (Packs.first (faultCodeCode s.faultCode) (by decide)).value

theorem eventsWord_toNat (s : State) : (eventsWord s).toNat =
    s.clk1.rise.toNat + 2 * s.clk1.fall.toNat + 4 * s.clk2.rise.toNat + 8 * s.clk2.fall.toNat +
      256 * s.clk1.level.toNat + 512 * s.clk2.level.toNat :=
  ((((((Packs.firstBit s.clk1.rise).bit s.clk1.fall 1 (by decide) (by decide)).bit
    s.clk2.rise 2 (by decide) (by decide)).bit s.clk2.fall 3 (by decide) (by decide)).bit
    s.clk1.level 8 (by decide) (by decide)).bit s.clk2.level 9 (by decide) (by decide)).value

theorem ctrlWord_toNat (c : Ctrl) : (ctrlWord c).toNat =
    Bool.toNat c.debug + 256 * c.heStart.toNat + 512 * c.heRise1.toNat + 1024 * c.heFall1.toNat +
      2048 * c.heRise2.toNat + 4096 * c.heFall2.toNat + 8192 * c.heStep.toNat :=
  (((((((Packs.firstBit c.debug).bit c.heStart 8 (by decide) (by decide)).bit
    c.heRise1 9 (by decide) (by decide)).bit c.heFall1 10 (by decide) (by decide)).bit
    c.heRise2 11 (by decide) (by decide)).bit c.heFall2 12 (by decide) (by decide)).bit
    c.heStep 13 (by decide) (by decide)).value

theorem clkSrcWord_toNat (c : ClkSrc) : (clkSrcWord c).toNat = c.idx.toNat + 2147483648 * c.en.toNat :=
  ((Packs.first c.idx (by decide)).bit c.en 31 (by decide) (by decide)).value

theorem cctlWord_toNat (c : Channel) : (cctlWord c).toNat =
    c.digital.toNat + 2 * c.smooth.toNat + 4 * c.rev.toNat :=
  (((Packs.firstBit c.digital).bit c.smooth 1 (by decide) (by decide)).bit c.rev 2 (by decide) (by decide)).value

theorem octlWord_toNat (o : Output) : (octlWord o).toNat = o.analog.toNat := (Packs.firstBit o.analog).value

/-- PARAMS holds the counts, which fit its four bytes (10_state.md R29, 00_scope.md R7). -/
theorem paramsWord_toNat {s : State} (h : sized s) : (paramsWord s).toNat =
    s.inputs.length + 256 * s.pots.length + 65536 * s.switches.length + 16777216 * s.outputs.length := by
  obtain ⟨hi, hp, hw, ho⟩ := h
  have byte : ∀ n, n ≤ 32 → (BitVec.ofNat 8 n).toNat = n := fun n hn => by
    rw [BitVec.toNat_ofNat, Nat.mod_eq_of_lt (by omega)]
  have h4 := ((((Packs.first (BitVec.ofNat 8 s.inputs.length) (by decide)).field
    (BitVec.ofNat 8 s.pots.length) 8 (by decide) (by decide)).field
    (BitVec.ofNat 8 s.switches.length) 16 (by decide) (by decide)).field
    (BitVec.ofNat 8 s.outputs.length) 24 (by decide) (by decide)).value
  rw [byte _ hi, byte _ hp, byte _ hw, byte _ ho] at h4
  exact h4

/-! ### The address of a register -/

/-- A channel register is found at its address (20_memory.md R47, 30_encoding.md R79). -/
theorem regOfAddr_chanRegAddr {c : Nat} (b : Bank) (hc : c < 32) (r : ChanReg) :
    regOfAddr (chanRegAddr b c r) = some (.chan b c r) := by
  have hb := bankCode_pos b
  have hr := chanRegOffset_lt r
  have hpage : chanRegAddr b c r / 256 = bankCode b := by unfold chanRegAddr; omega
  have hoff : chanRegAddr b c r % 8 = chanRegOffset r := by unfold chanRegAddr; omega
  have hchan : chanRegAddr b c r % 256 / 8 = c := by unfold chanRegAddr; omega
  rw [regOfAddr_of_ge (by unfold chanRegAddr; omega), hpage, bankOfPage_bankCode, hoff, hchan]
  simp [chanRegOfOffset_offset]

/-- An output register is found at its address (20_memory.md R47). -/
theorem regOfAddr_out {o : Nat} (ho : o < 32) (r : OutReg) : regOfAddr (regAddr (.out o r)) = some (.out o r) := by
  have hrange : 1024 ≤ regAddr (.out o r) ∧ regAddr (.out o r) < 1088 := by
    cases r <;> simp only [regAddr] <;> omega
  have hpage : bankOfPage (regAddr (.out o r) / 256) = none := by rw [bankOfPage_eq_none]; omega
  rw [regOfAddr_of_ge (by omega), hpage]
  dsimp only
  rw [if_pos hrange]
  cases r with
  | octl => rw [show (regAddr (.out o .octl) - 1024) / 2 = o by simp only [regAddr]; omega,
      if_pos (by simp only [regAddr]; omega)]
  | desired => rw [show (regAddr (.out o .desired) - 1024) / 2 = o by simp only [regAddr]; omega,
      if_neg (by simp only [regAddr]; omega)]

theorem State.bank_length_le {s : State} (h : sized s) (b : Bank) : (s.bank b).length ≤ 32 := by
  obtain ⟨hi, hp, hw, -⟩ := h
  cases b with
  | inputs => exact hi
  | pots => exact hp
  | switches => exact hw

/-- A register that the machine has is the one at its address. -/
theorem State.regOfAddr_regAddr {s : State} (h : sized s) {r : Reg} (hr : s.hasReg r = true) :
    regAddr r < 65536 ∧ regOfAddr (regAddr r) = some r := by
  cases r with
  | status | fault | faultInfo | ctrl | events | params => exact ⟨by decide, rfl⟩
  | clkSrc n => cases n <;> exact ⟨by decide, rfl⟩
  | chan b c r =>
    have hc : c < 32 := lt_of_lt_of_le (of_decide_eq_true hr) (State.bank_length_le h b)
    refine ⟨?_, regOfAddr_chanRegAddr b hc r⟩
    have := bankCode_pos b
    have := chanRegOffset_lt r
    simp only [regAddr, chanRegAddr]; omega
  | out o r =>
    obtain ⟨-, -, -, hlen⟩ := h
    have ho : o < 32 := lt_of_lt_of_le (of_decide_eq_true hr) hlen
    refine ⟨?_, regOfAddr_out ho r⟩
    cases r <;> simp only [regAddr] <;> omega

/-- A read at the address of a register that the machine has answers its word (20_memory.md R47, R48). -/
theorem State.readAt_regAddr {s : State} (h : sized s) {r : Reg} (hr : s.hasReg r = true) :
    s.readAt (BitVec.ofNat 16 (regAddr r)) = some (s.readReg r) := by
  obtain ⟨hlt, ha⟩ := State.regOfAddr_regAddr h hr
  apply State.readAt_of_regAt
  rw [State.regAt_eq_some, BitVec.toNat_ofNat, Nat.mod_eq_of_lt hlt]
  exact ⟨ha, hr⟩

theorem State.readAt_chan {s : State} (h : sized s) {b : Bank} {c : Nat} {ch : Channel}
    (hc : (s.bank b)[c]? = some ch) (r : ChanReg) :
    s.readAt (BitVec.ofNat 16 (chanRegAddr b c r)) = some (chanRegWord ch r) := by
  have hlt : c < (s.bank b).length := (List.getElem?_eq_some_iff.1 hc).1
  have hread := State.readAt_regAddr h (r := .chan b c r) (decide_eq_true hlt)
  simpa [State.readReg, hc, regAddr] using hread

theorem State.readAt_out {s : State} (h : sized s) {o : Nat} {out : Output} (ho : s.outputs[o]? = some out)
    (r : OutReg) : s.readAt (BitVec.ofNat 16 (regAddr (.out o r))) = some (outRegWord out r) := by
  have hlt : o < s.outputs.length := (List.getElem?_eq_some_iff.1 ho).1
  have hread := State.readAt_regAddr h (r := .out o r) (decide_eq_true hlt)
  simpa [State.readReg, ho] using hread

/-! ### The statements -/

/-- Settles O12: every register is read at its address, and its word packs its fields. -/
theorem statusAndEventWords : Obligations.StatusAndEventWords := by
  intro s hs
  refine ⟨?status, ?config, ?channel, ?output⟩
  case status =>
    refine ⟨statusWord s, faultWord s, eventsWord s, paramsWord s, State.readAt_regAddr hs (r := .status) rfl,
      State.readAt_regAddr hs (r := .fault) rfl, State.readAt_regAddr hs (r := .events) rfl,
      State.readAt_regAddr hs (r := .params) rfl, State.readAt_regAddr hs (r := .faultInfo) rfl,
      ?_, ?_, eventsWord_toNat s, paramsWord_toNat hs⟩
    · rw [statusWord_toNat]
      refine congrArg₂ (· + ·) (congrArg₂ (· + ·) ?mode (congrArg (16 * ·) ?hook)) (congrArg (256 * ·) ?phase)
      case mode => cases s.mode <;> rfl
      case hook => cases s.hook <;> rfl
      case phase => cases s.phase <;> rfl
    · rw [faultWord_toNat]
      cases s.faultCode <;> rfl
  case config =>
    exact ⟨ctrlWord s.ctrl, clkSrcWord s.clk1.src, clkSrcWord s.clk2.src,
      State.readAt_regAddr hs (r := .ctrl) rfl, State.readAt_regAddr hs (r := .clkSrc false) rfl,
      State.readAt_regAddr hs (r := .clkSrc true) rfl,
      ctrlWord_toNat s.ctrl, clkSrcWord_toNat s.clk1.src, clkSrcWord_toNat s.clk2.src⟩
  case channel =>
    intro b c ch hc base
    have hbase : base = 256 * bankCode b + 8 * c := by cases b <;> rfl
    have hread := State.readAt_chan hs hc
    rw [hbase]
    exact ⟨⟨cctlWord ch, hread .cctl, cctlWord_toNat ch⟩, hread .r1, hread .r2, hread .cutoff, hread .vmax,
      hread .tol, hread .reading⟩
  case output =>
    intro o out ho
    have hread := State.readAt_out hs ho
    exact ⟨⟨octlWord out, hread .octl, octlWord_toNat out⟩, hread .desired⟩

/-- Settles O20: a listed sample within the range is its own low ADC_BITS bits. -/
theorem samplesAreInRange : Obligations.SamplesAreInRange := by
  intro s
  refine ⟨s.sample_le, fun x rest hx hle => ⟨?_, State.afterSample_cons hx⟩⟩
  have hpos := Nat.two_pow_pos (adcBits s.params)
  rw [State.sample_cons hx]
  exact Nat.mod_eq_of_lt (by unfold adcBits at hpos ⊢; omega)

end Sys2Proof.Machine
end

section
/-! SUPPORT. Which registers the map lists and where, what a step performs for each kind of input, and the statements
of 20_memory.md. -/

namespace Sys2Proof.Machine

/-! ### The map of 20_memory.md R47, whatever the counts -/

/-- The map has room for 32 channels in each bank and for 32 outputs (20_memory.md R47). -/
def Reg.onMap : Reg → Prop
  | .chan _ c _ => c < 32
  | .out o _ => o < 32
  | .status | .fault | .faultInfo | .ctrl | .clkSrc _ | .events | .params => True

theorem regOfAddr_regAddr {r : Reg} (h : r.onMap) : regOfAddr (regAddr r) = some r := by
  cases r with
  | status | fault | faultInfo | ctrl | events | params => rfl
  | clkSrc second => cases second <;> rfl
  | chan b c f => exact regOfAddr_chanRegAddr b h f
  | out o f => exact regOfAddr_out h f

theorem onMap_regAddr_of_regOfAddr {a : Nat} {r : Reg} (h : regOfAddr a = some r) : r.onMap ∧ regAddr r = a := by
  by_cases hge : 8 ≤ a
  · rw [regOfAddr_of_ge hge] at h
    split at h
    · next b hb =>
      obtain ⟨f, hf, rfl⟩ := Option.map_eq_some_iff.1 h
      have hpage := bankOfPage_eq_some hb
      have hoff := chanRegOfOffset_eq_some hf
      simp only [Reg.onMap, regAddr, chanRegAddr]
      omega
    · split at h
      · cases h
        by_cases heven : a % 2 = 0 <;> simp only [heven, if_true, if_false, Reg.onMap, regAddr] <;> omega
      · cases h
  · have hlt : a < 8 := by omega
    interval_cases a <;> cases h <;> exact ⟨trivial, rfl⟩

/-- The map lists exactly the registers it has room for, each at its own address (20_memory.md R47). -/
theorem regOfAddr_eq_some_iff {a : Nat} {r : Reg} : regOfAddr a = some r ↔ r.onMap ∧ regAddr r = a :=
  ⟨onMap_regAddr_of_regOfAddr, fun ⟨hmap, haddr⟩ => haddr ▸ regOfAddr_regAddr hmap⟩

/-- Offsets 0 to 6 of a channel block each name a register. -/
theorem exists_chanRegOffset {k : Nat} (h : k ≤ 6) : ∃ f, chanRegOffset f = k := by
  interval_cases k
  · exact ⟨.cctl, rfl⟩
  · exact ⟨.r1, rfl⟩
  · exact ⟨.r2, rfl⟩
  · exact ⟨.cutoff, rfl⟩
  · exact ⟨.vmax, rfl⟩
  · exact ⟨.tol, rfl⟩
  · exact ⟨.reading, rfl⟩

/-! ### The addresses that a machine maps (20_memory.md R48) -/

theorem State.regAt_isSome_iff (s : State) (a : Addr) :
    (s.regAt a).isSome = true ↔ ∃ r : Reg, r.onMap ∧ regAddr r = a.toNat ∧ s.hasReg r = true := by
  simp only [Option.isSome_iff_exists, State.regAt_eq_some, regOfAddr_eq_some_iff, and_assoc]

/-- A block register: 0x0000 to 0x0007. -/
theorem State.regAt_isSome_of_block (s : State) {a : Addr} (h : a.toNat ≤ 7) : (s.regAt a).isSome = true := by
  rw [State.regAt_isSome_iff]
  generalize a.toNat = n at h
  interval_cases n
  · exact ⟨.status, trivial, rfl, rfl⟩
  · exact ⟨.fault, trivial, rfl, rfl⟩
  · exact ⟨.faultInfo, trivial, rfl, rfl⟩
  · exact ⟨.ctrl, trivial, rfl, rfl⟩
  · exact ⟨.clkSrc false, trivial, rfl, rfl⟩
  · exact ⟨.clkSrc true, trivial, rfl, rfl⟩
  · exact ⟨.events, trivial, rfl, rfl⟩
  · exact ⟨.params, trivial, rfl, rfl⟩

/-- A register of a channel below the bank's count. -/
theorem State.regAt_isSome_of_chan {s : State} {a : Addr} (b : Bank) (hpage : a.toNat / 256 = bankCode b)
    (hoff : a.toNat % 8 ≤ 6) (hc : a.toNat % 256 / 8 < (s.bank b).length) : (s.regAt a).isSome = true := by
  obtain ⟨f, hf⟩ := exists_chanRegOffset hoff
  rw [State.regAt_isSome_iff]
  refine ⟨.chan b (a.toNat % 256 / 8) f, ?_, ?_, decide_eq_true hc⟩
  · simp only [Reg.onMap]; omega
  · simp only [regAddr, chanRegAddr]; omega

/-- A register of an output below N_OUT: OCTL at the even addresses, DESIRED at the odd ones. -/
theorem State.regAt_isSome_of_out {s : State} {a : Addr} (hlo : 0x400 ≤ a.toNat) (hhi : a.toNat < 0x440)
    (ho : (a.toNat - 0x400) / 2 < s.outputs.length) : (s.regAt a).isSome = true := by
  rw [State.regAt_isSome_iff]
  obtain heven | hodd := Nat.mod_two_eq_zero_or_one a.toNat
  · refine ⟨.out ((a.toNat - 0x400) / 2) .octl, ?_, ?_, decide_eq_true ho⟩
    · simp only [Reg.onMap]; omega
    · simp only [regAddr]; omega
  · refine ⟨.out ((a.toNat - 0x400) / 2) .desired, ?_, ?_, decide_eq_true ho⟩
    · simp only [Reg.onMap]; omega
    · simp only [regAddr]; omega

/-! ### What a step performs (20_memory.md R57) -/

theorem step_of_runs {s t : State} {i : Instr} (h : fetch s = .runs i t) : step s = exec i t := by
  simp only [step, h]

/-- A legal host command (30_encoding.md R74). -/
theorem fetch_cmd {s : State} {c : Cmd} {rest : List Input} {i : Instr} (hin : s.inbox = .cmd c :: rest)
    (hd : decodeCmd c.cw = .ok i) (hi : i.isHost = true) : fetch s = .runs i (s.received rest c) := by
  simp only [fetch, hin, fetchHost, hd, hi, if_true, State.received]

/-- An internal micro-operation: OPB and OPC stay as they are latched. -/
theorem fetch_micro {s : State} {w a : Word} {rest : List Input} {i : Instr} (hin : s.inbox = .micro w a :: rest)
    (hd : decodeCmd w = .ok i) (hi : i.isHost = false) :
    fetch s = .runs i (s.received rest ⟨w, a, s.opb, s.opc⟩) := by
  simp only [fetch, hin, fetchMicro, hd, hi, Bool.false_eq_true, if_false, State.received]

theorem fetch_frame {s : State} {w : Frame} {rest : List Input} {i : Instr} (hin : s.inbox = .frame w :: rest)
    (hd : decodeFrame w = .ok i) : fetch s = .runs i { s with inbox := rest } := by
  simp only [fetch, hin, fetchFrame, hd]

/-! ### The statements -/

/-- Settles O10: the registers on the map, by their addresses, and for each mapped address the register there. -/
theorem mappedAddresses : Obligations.MappedAddresses := by
  intro s a
  constructor
  · intro h
    obtain ⟨r, hmap, haddr, hr⟩ := (State.regAt_isSome_iff s a).1 h
    cases r with
    | status | fault | faultInfo | ctrl | events | params => simp only [regAddr] at haddr; omega
    | clkSrc second => cases second <;> simp only [regAddr] at haddr <;> omega
    | chan b c f =>
      have hf := chanRegOffset_lt f
      have hc : c < (s.bank b).length := of_decide_eq_true hr
      cases b <;> simp only [Reg.onMap, regAddr, chanRegAddr, bankCode, State.bank] at hmap haddr hc <;> omega
    | out o f =>
      have ho : o < s.outputs.length := of_decide_eq_true hr
      cases f <;> simp only [Reg.onMap, regAddr] at hmap haddr <;> omega
  · rintro (hblock | ⟨hlo, hhi, hoff, hc⟩ | ⟨hlo, hhi, hoff, hc⟩ | ⟨hlo, hhi, hoff, hc⟩ | ⟨hlo, hhi, ho⟩)
    · exact s.regAt_isSome_of_block hblock
    · exact State.regAt_isSome_of_chan .inputs (by simp only [bankCode]; omega) hoff
        (by simp only [State.bank]; omega)
    · exact State.regAt_isSome_of_chan .pots (by simp only [bankCode]; omega) hoff
        (by simp only [State.bank]; omega)
    · exact State.regAt_isSome_of_chan .switches (by simp only [bankCode]; omega) hoff
        (by simp only [State.bank]; omega)
    · exact State.regAt_isSome_of_out hlo hhi ho

/-- Settles O5: each kind of input fetches its instruction with its latches, and a step runs what it fetches. -/
theorem stepRunsTheDecodedInstruction : Obligations.StepRunsTheDecodedInstruction :=
  ⟨fun _ _ _ _ hin hd hi => step_of_runs (fetch_cmd hin hd hi),
    fun _ _ _ _ _ hin hd hi => step_of_runs (fetch_micro hin hd hi),
    fun _ _ _ _ hin hd => step_of_runs (fetch_frame hin hd)⟩

end Sys2Proof.Machine
end

section
/-! SUPPORT. Decoding and encoding as inverses of one another, which command words are legal, which words are frames of
some code, and the statements of 30_encoding.md about words. -/

namespace Sys2Proof

/-! ### The fields of a command word (30_encoding.md R64) -/

theorem mkCw_eq_iff {o f : BitVec 8} {m : BitVec 16} {w : Word} :
    mkCw o f m = w ↔ cwOpc w = o ∧ cwFlags w = f ∧ cwImm w = m := by
  constructor
  · rintro rfl
    exact ⟨cwOpc_mkCw o f m, cwFlags_mkCw o f m, cwImm_mkCw o f m⟩
  · rintro ⟨rfl, rfl, rfl⟩
    exact mkCw_fields w

theorem upperHalf_eq_append (w : Word) : w.extractLsb' 16 16 = cwOpc w ++ cwFlags w :=
  (BitVec.extractLsb'_append_extractLsb'_eq_extractLsb' (start₁ := 16) (len₁ := 8) (len₂ := 8) rfl).symm

theorem upperHalf_mkCw (o f : BitVec 8) (m : BitVec 16) : (mkCw o f m).extractLsb' 16 16 = o ++ f := by
  rw [upperHalf_eq_append, cwOpc_mkCw, cwFlags_mkCw]

theorem mkCw_of_upperHalf {w : Word} {o f : BitVec 8} (h : w.extractLsb' 16 16 = o ++ f) :
    mkCw o f (cwImm w) = w := by
  rw [upperHalf_eq_append] at h
  have ho : cwOpc w = o := by
    rw [← BitVec.extractLsb'_append_eq_left (a := cwOpc w) (b := cwFlags w), h, BitVec.extractLsb'_append_eq_left]
  have hf : cwFlags w = f := by
    rw [← BitVec.extractLsb'_append_eq_right (a := cwOpc w) (b := cwFlags w), h, BitVec.extractLsb'_append_eq_right]
  exact mkCw_eq_iff.2 ⟨ho, hf, rfl⟩

/-! ### Decoding the word of an instruction -/

theorem decode_encode (i : Instr) : decode (encode i) = .ok i := by
  cases i with
  | nop | start | step | ack | conv | thresh | quant => decide
  | rd imm | wr imm | uCommit imm => simp [encode, decode, decodeCmd, ifClear]
  | pct flag | dacenc flag | uClkdet flag | uDacxfer flag => simp [encode, decode, decodeCmd, ifClear]
  | uCond bank channel | uSmooth bank channel => simp [encode, decode, decodeCmd, ifClear]
  | uHook kind => simp [encode, decode, decodeCmd, ifClear]
  | dacFrame sel gaN code => simp [encode, decode, decodeFrame]

theorem decode_of_encode_eq {r : Raw} {i : Instr} (h : encode i = r) : decode r = .ok i :=
  h ▸ decode_encode i

/-! ### Encoding the instruction of a word -/

/-- One arm of the decoder: the bits it wants clear leave the word the FLAGS and IMM16 of the arm's instruction. -/
theorem encode_of_ifClear {w : Word} {o f : BitVec 8} {m : BitVec 16} {clear : Bool} {i j : Instr}
    (h : ifClear o clear i = .ok j) (ho : cwOpc w = o) (hi : encode i = .cmd (mkCw o f m))
    (hclear : clear = true → cwFlags w = f ∧ cwImm w = m) : encode j = .cmd w := by
  obtain ⟨hc, rfl⟩ := ifClear_eq_ok.1 h
  rw [hi, mkCw_eq_iff.2 ⟨ho, hclear hc⟩]

section Arms

variable {w : Word} {o : BitVec 8} {i j : Instr}

/-- An arm without operands. -/
theorem encode_of_ifClear_bare (h : ifClear o (cwFlags w == 0 && cwImm w == 0) i = .ok j) (ho : cwOpc w = o)
    (hi : encode i = .cmd (mkCw o 0 0)) : encode j = .cmd w :=
  encode_of_ifClear h ho hi (by simp)

/-- An arm whose operand is IMM16. -/
theorem encode_of_ifClear_imm (h : ifClear o (cwFlags w == 0) i = .ok j) (ho : cwOpc w = o)
    (hi : encode i = .cmd (mkCw o 0 (cwImm w))) : encode j = .cmd w :=
  encode_of_ifClear h ho hi (by simp)

/-- An arm whose operand is FLAGS[0]. -/
theorem encode_of_ifClear_flag (h : ifClear o ((cwFlags w).extractLsb' 1 7 == 0 && cwImm w == 0) i = .ok j)
    (ho : cwOpc w = o) (hi : encode i = .cmd (mkCw o (flagBit ((cwFlags w).getLsbD 0)) 0)) : encode j = .cmd w :=
  encode_of_ifClear h ho hi fun hc => by
    obtain ⟨hf, hm⟩ := Bool.and_eq_true_iff.1 hc
    exact ⟨(flagBit_of_high (beq_iff_eq.1 hf)).symm, beq_iff_eq.1 hm⟩

/-- An arm whose operands are a bank in FLAGS[1:0] and a channel in IMM16. -/
theorem encode_of_ifClear_bank (h : ifClear o ((cwFlags w).extractLsb' 2 6 == 0) i = .ok j) (ho : cwOpc w = o)
    (hi : encode i = .cmd (mkCw o (fieldAt 8 ((cwFlags w).extractLsb' 0 2) 0) (cwImm w))) : encode j = .cmd w :=
  encode_of_ifClear h ho hi fun hc => ⟨(bank_of_clear (beq_iff_eq.1 hc)).symm, rfl⟩

/-- An arm whose operand is a hook kind in FLAGS[2:0]. -/
theorem encode_of_ifClear_kind (h : ifClear o ((cwFlags w).extractLsb' 3 5 == 0 && cwImm w == 0) i = .ok j)
    (ho : cwOpc w = o) (hi : encode i = .cmd (mkCw o (fieldAt 8 ((cwFlags w).extractLsb' 0 3) 0) 0)) :
    encode j = .cmd w :=
  encode_of_ifClear h ho hi fun hc => by
    obtain ⟨hf, hm⟩ := Bool.and_eq_true_iff.1 hc
    exact ⟨(kind_of_clear (beq_iff_eq.1 hf)).symm, beq_iff_eq.1 hm⟩

end Arms

theorem encode_of_decodeCmd {w : Word} {i : Instr} (h : decodeCmd w = .ok i) : encode i = .cmd w := by
  unfold decodeCmd at h
  generalize ho : cwOpc w = o at h
  dsimp only at h
  split at h
  · exact encode_of_ifClear_bare h ho rfl
  · exact encode_of_ifClear_imm h ho rfl
  · exact encode_of_ifClear_imm h ho rfl
  · exact encode_of_ifClear_bare h ho rfl
  · exact encode_of_ifClear_bare h ho rfl
  · exact encode_of_ifClear_bare h ho rfl
  · exact encode_of_ifClear_bare h ho rfl
  · exact encode_of_ifClear_bare h ho rfl
  · exact encode_of_ifClear_flag h ho rfl
  · exact encode_of_ifClear_bare h ho rfl
  · exact encode_of_ifClear_flag h ho rfl
  · exact encode_of_ifClear_bank h ho rfl
  · exact encode_of_ifClear_bank h ho rfl
  · exact encode_of_ifClear_flag h ho rfl
  · exact encode_of_ifClear_imm h ho rfl
  · exact encode_of_ifClear_flag h ho rfl
  · exact encode_of_ifClear_kind h ho rfl
  · cases h

theorem encode_of_decodeFrame {w : Frame} {i : Instr} (h : decodeFrame w = .ok i) : encode i = .frame w := by
  unfold decodeFrame at h
  split at h
  · next hbits =>
    cases h
    obtain ⟨h14, h12⟩ := Bool.and_eq_true_iff.1 hbits
    exact congrArg Raw.frame (mkFrame_fields (by simpa using h14) h12)
  · cases h

theorem encode_of_decode {r : Raw} {i : Instr} (h : decode r = .ok i) : encode i = r := by
  cases r with
  | cmd w => exact encode_of_decodeCmd h
  | frame w => exact encode_of_decodeFrame h

/-! ### The legal command words (30_encoding.md R74) -/

theorem legalCw_iff_exists_encode {w : Word} :
    legalCw w = true ↔ ∃ i : Instr, i.isHost = true ∧ encode i = .cmd w := by
  constructor
  · intro h
    unfold legalCw at h
    split at h
    · next i hd => exact ⟨i, h, encode_of_decodeCmd hd⟩
    · cases h
  · rintro ⟨i, hi, he⟩
    have hd : decodeCmd w = .ok i := decode_of_encode_eq he
    simp only [legalCw, hd, hi]

/-- The words that the host may issue: 11 of them fixed, and RD and WR with any address. -/
theorem legalCw_iff {w : Word} : legalCw w = true ↔
    w = 0x01000000 ∨ w.extractLsb' 16 16 = 0x0200 ∨ w.extractLsb' 16 16 = 0x0300 ∨
    w = 0x04000000 ∨ w = 0x05000000 ∨ w = 0x06000000 ∨ w = 0x10000000 ∨ w = 0x11000000 ∨
    w = 0x12000000 ∨ w = 0x12010000 ∨ w = 0x13000000 ∨ w = 0x14000000 ∨ w = 0x14010000 := by
  rw [legalCw_iff_exists_encode]
  constructor
  · rintro ⟨i, hi, he⟩
    cases i with
    | nop | start | step | ack | conv | thresh | quant => cases he; decide
    | pct flag | dacenc flag => cases he; cases flag <;> decide
    | rd a => cases he; exact .inr (.inl (upperHalf_mkCw 0x02 0 a))
    | wr a => cases he; exact .inr (.inr (.inl (upperHalf_mkCw 0x03 0 a)))
    | uCond | uSmooth | uClkdet | uCommit | uDacxfer | uHook | dacFrame => cases hi
  · rintro (rfl | hrd | hwr | rfl | rfl | rfl | rfl | rfl | rfl | rfl | rfl | rfl | rfl)
    · exact ⟨.nop, by decide⟩
    · exact ⟨.rd (cwImm w), rfl, congrArg Raw.cmd (mkCw_of_upperHalf hrd)⟩
    · exact ⟨.wr (cwImm w), rfl, congrArg Raw.cmd (mkCw_of_upperHalf hwr)⟩
    · exact ⟨.start, by decide⟩
    · exact ⟨.step, by decide⟩
    · exact ⟨.ack, by decide⟩
    · exact ⟨.conv, by decide⟩
    · exact ⟨.thresh, by decide⟩
    · exact ⟨.pct false, by decide⟩
    · exact ⟨.pct true, by decide⟩
    · exact ⟨.quant, by decide⟩
    · exact ⟨.dacenc false, by decide⟩
    · exact ⟨.dacenc true, by decide⟩

end Sys2Proof

namespace Sys2Proof.Machine

/-! ### A step on an illegal command word (60_exceptions.md R218) -/

theorem fetch_cmd_illegal {s : State} {c : Cmd} {rest : List Input} (hin : s.inbox = .cmd c :: rest)
    (hlegal : legalCw c.cw = false) : fetch s = .illegal (s.received rest c) := by
  simp only [fetch, hin, fetchHost]
  unfold legalCw at hlegal
  cases hd : decodeCmd c.cw with
  | ok i =>
    rw [hd] at hlegal
    exact if_neg (by simpa using hlegal)
  | error e => rfl

theorem illegalCw_of_not_halted {s : State} (h : s.mode ≠ .halted) : illegalCw s = s.raise .illegalCmd s.cw :=
  if_neg h

theorem step_of_illegal {s t : State} (h : fetch s = .illegal t) : step s = .next (illegalCw t) := by
  simp only [step, h]

/-! ### The frames of a code (43_dac_frame_encoder.md R150) -/

theorem dacClamp_bounds (v : Int) : 0 ≤ dacClamp v ∧ dacClamp v ≤ 4095 := by
  unfold dacClamp clamp
  split_ifs <;> omega

theorem dacClamp_of_mem {v : Int} (hlo : 0 ≤ v) (hhi : v ≤ 4095) : dacClamp v = v := by
  unfold dacClamp clamp
  rw [if_neg (by omega), if_neg (by omega)]

/-- Above 2048 the code is sent at 2x gain. -/
theorem enc_of_high {v : Int} (sel : Bool) (h : 2048 < dacClamp v) :
    enc v sel = mkFrame sel false (BitVec.ofInt 12 (dacClamp v)) := by
  unfold enc dacGainN dacPayload
  rw [if_pos h, decide_eq_false (by omega)]

/-- Up to 2048 twice the code is sent at 1x gain. -/
theorem enc_of_low {v : Int} (sel : Bool) (h : dacClamp v ≤ 2048) :
    enc v sel = mkFrame sel true (BitVec.ofInt 12 (2 * dacClamp v)) := by
  unfold enc dacGainN dacPayload
  rw [if_neg (by omega), decide_eq_true h]

theorem toNat_ofInt_payload (x : Int) : ((BitVec.ofInt 12 x).toNat : Int) = x % 4096 := by
  rw [BitVec.toNat_ofInt, Int.toNat_of_nonneg (Int.emod_nonneg _ (by decide))]
  rfl

/-- A frame that some code has: at 2x gain its payload is above 2048, at 1x gain it is even (30_encoding.md R73). -/
theorem enc_payload (v : Int) (sel : Bool) :
    ¬((enc v sel).getLsbD 13 = false ∧ ((enc v sel).extractLsb' 0 12).toNat ≤ 2048) ∧
      ¬((enc v sel).getLsbD 13 = true ∧ ((enc v sel).extractLsb' 0 12).toNat % 2 = 1) := by
  obtain ⟨hlo, hhi⟩ := dacClamp_bounds v
  obtain hlow | hhigh := le_or_gt (dacClamp v) 2048
  · rw [enc_of_low sel hlow, mkFrame_code, show (mkFrame sel true _).getLsbD 13 = true from mkFrame_gainN ..]
    have hpayload := toNat_ofInt_payload (2 * dacClamp v)
    exact ⟨by simp, by omega⟩
  · rw [enc_of_high sel hhigh, mkFrame_code, show (mkFrame sel false _).getLsbD 13 = false from mkFrame_gainN ..]
    have hpayload := toNat_ofInt_payload (dacClamp v)
    exact ⟨by omega, by simp⟩

/-- A code above 2048 is its own payload. -/
theorem enc_toNat_of_high {c : BitVec 12} (sel : Bool) (h : 2048 < c.toNat) : enc c.toNat sel = mkFrame sel false c := by
  have hclamp : dacClamp c.toNat = c.toNat := dacClamp_of_mem (by omega) (by omega)
  rw [enc_of_high sel (by omega), hclamp]
  simp

/-- An even payload is twice a code up to 2048. -/
theorem enc_half_of_even {c : BitVec 12} (sel : Bool) (h : c.toNat % 2 = 0) :
    enc ((c.toNat / 2 : Nat) : Int) sel = mkFrame sel true c := by
  have hclamp : dacClamp ((c.toNat / 2 : Nat) : Int) = (c.toNat / 2 : Nat) := dacClamp_of_mem (by omega) (by omega)
  have hdouble : 2 * ((c.toNat / 2 : Nat) : Int) = c.toNat := by omega
  rw [enc_of_low sel (by omega), hclamp, hdouble]
  simp

/-! ### The statements -/

/-- Settles O1: the fields of an instruction's word are read back one by one. -/
theorem decodeOfEncode : Obligations.DecodeOfEncode := decode_encode

/-- Settles O2: an arm of the decoder is taken only by the word of its instruction. -/
theorem encodeOfDecode : Obligations.EncodeOfDecode := fun _ _ => encode_of_decode

/-- Settles O3: each of the words is the word of its instruction. -/
theorem writtenOutWordsDecode : Obligations.WrittenOutWordsDecode :=
  ⟨decode_of_encode_eq (by decide), decode_of_encode_eq (by decide), decode_of_encode_eq (by decide),
    decode_of_encode_eq (by decide), decode_of_encode_eq (by decide), decode_of_encode_eq (by decide),
    decode_of_encode_eq (by decide), decode_of_encode_eq (by decide), decode_of_encode_eq (by decide),
    decode_of_encode_eq (by decide)⟩

/-- Settles O4: the legal words are those of host instructions, and any other raises as its latches are written. -/
theorem illegalCommandWords : Obligations.IllegalCommandWords := by
  refine ⟨fun w => legalCw_iff, fun s c rest hin hmode hlegal => ?_⟩
  rw [step_of_illegal (fetch_cmd_illegal hin hlegal), illegalCw_of_not_halted (s := s.received rest c) hmode]
  rfl

/-- Settles O28: such a word is the frame of its payload at 2x gain, of half its payload at 1x gain. -/
theorem emittedFrames : Obligations.EmittedFrames := by
  intro w
  constructor
  · rintro ⟨v, sel, rfl⟩
    exact ⟨mkFrame_bit14 .., mkFrame_active .., enc_payload v sel⟩
  · rintro ⟨h14, h12, hhigh, hlow⟩
    have hfields := mkFrame_fields h14 h12
    cases hgain : w.getLsbD 13 with
    | false =>
      rw [hgain] at hfields
      exact ⟨_, w.getLsbD 15, (enc_toNat_of_high _ (Nat.lt_of_not_le fun hle => hhigh ⟨hgain, hle⟩)).trans hfields⟩
    | true =>
      rw [hgain] at hfields
      exact ⟨_, w.getLsbD 15, (enc_half_of_even _ (Nat.mod_two_ne_one.1 fun hodd => hlow ⟨hgain, hodd⟩)).trans hfields⟩

end Sys2Proof.Machine
end

section
/-! SUPPORT. Where the registers of the map stand, what a frame on the wire does, which micro-operations are refused, and
the statements of 30_encoding.md about addresses, frames and operands. -/

namespace Sys2Proof.Machine

/-! ### Register addresses (30_encoding.md R79) -/

/-- The last register of the map is DESIRED of output 31, at 0x043F. -/
theorem regAddr_le_of_onMap {r : Reg} (h : r.onMap) : regAddr r ≤ 0x043F := by
  cases r with
  | status | fault | faultInfo | ctrl | events | params => decide
  | clkSrc second => cases second <;> decide
  | chan b c f =>
    have hb := bankCode_pos b
    have hf := chanRegOffset_lt f
    simp only [Reg.onMap] at h
    simp only [regAddr, chanRegAddr]
    omega
  | out o f =>
    simp only [Reg.onMap] at h
    cases f <;> simp only [regAddr] <;> omega

/-- Every machine has the registers at 0 to 7 (20_memory.md R47). -/
theorem State.hasReg_of_regOfAddr_lt {n : Nat} {r : Reg} (s : State) (hn : n < 8) (h : regOfAddr n = some r) :
    s.hasReg r = true := by
  interval_cases n <;> cases h <;> rfl

theorem regAccess_chan_of_ne_reading {r : ChanReg} (b : Bank) (c : Nat) (h : r ≠ .reading) :
    regAccess (.chan b c r) = .config := by
  cases r with
  | cctl | r1 | r2 | cutoff | vmax | tol => rfl
  | reading => exact absurd rfl h

/-! ### A frame on the wire (43_dac_frame_encoder.md R158, step 2) -/

/-- From SCK low one frame position is one rising edge. -/
theorem risingEdges_bitWave {p : Pins} (h : p.sck = false) (w : Frame) (n i : Nat) :
    risingEdges p (bitWave w n i) = 1 := by
  simp [risingEdges, bitWave, drivePin, h]

/-- From SCK low the chip that is selected samples its bit once at one frame position, before SDI is freed. -/
theorem sampledBits_bitWave {p : Pins} (h : p.sck = false) (k : Chip) (w : Frame) (n i : Nat) :
    sampledBits k p (bitWave w n i) = if selectedChip p = some k then [w.getLsbD (15 - i)] else [] := by
  have hselect : selectedChip { p with sck := false, sdi := w.getLsbD (15 - i) } = selectedChip p := rfl
  simp [sampledBits, bitWave, drivePin, hselect, h]

theorem risingEdges_positions {p : Pins} (h : p.sck = false) (w : Frame) (n : Nat) (l : List Nat) :
    risingEdges p (l.flatMap (bitWave w n)) = l.length := by
  induction l generalizing p with
  | nil => rfl
  | cons i l ih =>
    rw [List.flatMap_cons, risingEdges_append, risingEdges_bitWave h, ih (p := drivePins p (bitWave w n i)) rfl,
      List.length_cons, Nat.add_comm]

theorem sampledBits_positions {p : Pins} (h : p.sck = false) (k : Chip) (w : Frame) (n : Nat) (l : List Nat) :
    sampledBits k p (l.flatMap (bitWave w n)) =
      if selectedChip p = some k then l.map (fun i => w.getLsbD (15 - i)) else [] := by
  induction l generalizing p with
  | nil => simp [sampledBits]
  | cons i l ih =>
    have hstep : selectedChip (drivePins p (bitWave w n i)) = selectedChip p := rfl
    rw [List.flatMap_cons, sampledBits_append, sampledBits_bitWave h, ih (p := drivePins p (bitWave w n i)) rfl, hstep]
    by_cases hk : selectedChip p = some k <;> simp [hk]

theorem selectedChip_chip0_iff {p : Pins} : selectedChip p = some .chip0 ↔ p.csN0 = false ∧ p.csN1 = true := by
  unfold selectedChip
  split_ifs with h0 h1 <;> simp [h0]

theorem selectedChip_chip1_iff {p : Pins} : selectedChip p = some .chip1 ↔ p.csN0 = true ∧ p.csN1 = false := by
  unfold selectedChip
  split_ifs with h0 h1
  · simp [h0]
  · simp [h1]
  · simp [h1]

/-! ### Operands that are never issued (30_encoding.md R66) -/

theorem exec_uCond_of_no_bank {k : BitVec 2} (h : bankOfCode k = none) (c : BitVec 16) (s : State) :
    exec (.uCond k c) s = .refused .neverIssued := by
  simp only [exec, execUCond, h]

theorem exec_uCond_of_no_channel {s : State} {k : BitVec 2} {b : Bank} {c : BitVec 16} (hk : bankOfCode k = some b)
    (hc : (s.bank b).length ≤ c.toNat) : exec (.uCond k c) s = .refused .neverIssued := by
  simp only [exec, execUCond, hk, if_neg (Nat.not_lt.2 hc)]

theorem exec_uSmooth_of_no_bank {k : BitVec 2} (h : bankOfCode k = none) (c : BitVec 16) (s : State) :
    exec (.uSmooth k c) s = .refused .neverIssued := by
  simp only [exec, execUSmooth, h]

theorem exec_uSmooth_of_no_channel {s : State} {k : BitVec 2} {b : Bank} {c : BitVec 16} (hk : bankOfCode k = some b)
    (hc : (s.bank b).length ≤ c.toNat) : exec (.uSmooth k c) s = .refused .neverIssued := by
  simp only [exec, execUSmooth, hk, if_neg (Nat.not_lt.2 hc)]

theorem exec_uCommit_of_no_output {s : State} {o : BitVec 16} (h : s.outputs.length ≤ o.toNat) :
    exec (.uCommit o) s = .refused .neverIssued := by
  simp [exec, execUCommit, canCommit, List.getElem?_eq_none h]

theorem exec_uHook_of_no_hook {k : BitVec 3} (h : hookOfCode k = none) (s : State) :
    exec (.uHook k) s = .refused .neverIssued := by
  simp only [exec, execUHook, h]

/-! ### The statements -/

/-- Settles O11: the map lists exactly the registers it has room for, each at its own address. -/
theorem registerAddresses : Obligations.RegisterAddresses := by
  refine ⟨?block, ?codes, ?chan, ?out, ?only, ?access, ?counts⟩
  case block => exact ⟨rfl, rfl, rfl, rfl, rfl, rfl, rfl, rfl⟩
  case codes => exact ⟨rfl, rfl, rfl, rfl, rfl, rfl, rfl, rfl, rfl, rfl⟩
  case chan => exact fun b c r hc => regOfAddr_chanRegAddr b hc r
  case out => exact fun o ho => ⟨regOfAddr_out ho .octl, regOfAddr_out ho .desired⟩
  case only =>
    intro n r hr
    obtain ⟨hmap, rfl⟩ := regOfAddr_eq_some_iff.1 hr
    exact ⟨rfl, regAddr_le_of_onMap hmap⟩
  case access =>
    exact ⟨rfl, rfl, rfl, rfl, fun _ => rfl, rfl, rfl,
      fun b c => ⟨rfl, fun _ hr => regAccess_chan_of_ne_reading b c hr⟩, fun _ => ⟨rfl, rfl⟩⟩
  case counts =>
    exact fun s => ⟨fun _ _ _ => decide_eq_true_iff, fun _ _ => decide_eq_true_iff,
      fun _ hn _ hr => s.hasReg_of_regOfAddr_lt hn hr⟩

/-- Settles O31, position by position: a chip samples each bit at the one rising edge of its position if its CS_n alone
is low, and nothing otherwise. -/
theorem dacFrameReachesTheSelectedChip : Obligations.DacFrameReachesTheSelectedChip := by
  intro s sel gaN code w
  refine ⟨rfl, ⟨_, drivePins_frameWave s.pins w s.free⟩, fun hsck => ⟨?edges, ?sampled0, ?sampled1, ?none0, ?none1⟩⟩
  case edges => exact risingEdges_positions hsck w s.free (List.range 16)
  case sampled0 =>
    exact fun h0 h1 => (sampledBits_positions hsck _ w s.free _).trans (if_pos (selectedChip_chip0_iff.2 ⟨h0, h1⟩))
  case sampled1 =>
    exact fun h0 h1 => (sampledBits_positions hsck _ w s.free _).trans (if_pos (selectedChip_chip1_iff.2 ⟨h0, h1⟩))
  case none0 =>
    refine fun h0 => (sampledBits_positions hsck _ w s.free _).trans (if_neg fun hk => ?_)
    simp [selectedChip_chip0_iff, h0] at hk
  case none1 =>
    refine fun h1 => (sampledBits_positions hsck _ w s.free _).trans (if_neg fun hk => ?_)
    simp [selectedChip_chip1_iff, h1] at hk

/-- Settles O60: bank 0, an absent channel or output, and hook kinds 0 and 7. -/
theorem neverIssuedOperandsAreRefused : Obligations.NeverIssuedOperandsAreRefused := fun s =>
  ⟨fun c => ⟨exec_uCond_of_no_bank rfl c s, exec_uSmooth_of_no_bank rfl c s⟩,
    fun _ _ _ hk hc => ⟨exec_uCond_of_no_channel hk hc, exec_uSmooth_of_no_channel hk hc⟩,
    fun _ ho => exec_uCommit_of_no_output ho, exec_uHook_of_no_hook rfl s, exec_uHook_of_no_hook rfl s⟩

end Sys2Proof.Machine
end

section
/-! SUPPORT. What the host's register commands answer and store, that every input of the host has an answer, and the
statements of 40_host_interface.md. -/

namespace Sys2Proof.Machine

/-! ### Words with reserved bits (30_encoding.md R67) -/

/-- A word whose arm of the decoder finds a reserved bit set is not legal. -/
theorem legalCw_of_reserved {w : Word} {o : BitVec 8} {i : Instr} {clear : Bool} (hd : decodeCmd w = ifClear o clear i)
    (hc : clear = false) : legalCw w = false := by
  subst hc
  simp only [legalCw, hd, ifClear, Bool.false_eq_true, if_false]

theorem decodeCmd_of_opc_nop {w : Word} (h : cwOpc w = 0x01) :
    decodeCmd w = ifClear 0x01 (cwFlags w == 0 && cwImm w == 0) .nop := by
  simp [decodeCmd, h]

theorem decodeCmd_of_opc_rd {w : Word} (h : cwOpc w = 0x02) :
    decodeCmd w = ifClear 0x02 (cwFlags w == 0) (.rd (cwImm w)) := by
  simp [decodeCmd, h]

/-- A command word without FLAGS is its opcode above its IMM16 (30_encoding.md R64). -/
theorem mkCw_of_no_flags (o : BitVec 8) (imm : BitVec 16) :
    mkCw o 0 imm = fieldAt 32 o 24 ||| imm.setWidth 32 := by
  simp [mkCw, fieldAt]

/-! ### Faults -/

/-- All that a raise changes (60_exceptions.md R216). -/
theorem State.raise_eq (s : State) (code : FaultCode) (info : Word) :
    s.raise code info = { s with res := 0, mode := .halted, faultCode := code, faultInfo := info } := rfl

/-! ### NOP and RD -/

/-- In HALTED too NOP clears RES and nothing else (40_host_interface.md R80). -/
theorem execNop_eq (s : State) : execNop s = .next (s.setRes 0) := by
  by_cases hm : s.mode = .halted
  · exact State.hostCommand_halted hm
  · exact State.hostCommand_allowed hm

theorem execRd_of_mapped {a : Addr} {s : State} {w : Word} (h : s.readAt a = some w) :
    execRd a s = .next (s.setRes w) := by
  simp only [execRd, h]

theorem execRd_of_unmapped {a : Addr} {s : State} (h : s.readAt a = none) :
    execRd a s = .next (if s.mode = .halted then s.setRes 0 else s.raise .badIndex s.cw) := by
  simp only [execRd, h]

/-! ### The checks of WR (40_host_interface.md R82) -/

theorem writeRule_of_unmapped {a : Addr} {s : State} (h : s.regAt a = none) :
    writeRule a s = s.raise .badIndex s.cw := by
  simp only [writeRule, h]

theorem writeRule_of_readOnly {a : Addr} {s : State} {r : Reg} (h : s.regAt a = some r)
    (hr : regAccess r = .readOnly) : writeRule a s = s.raise .readOnly s.cw := by
  simp only [writeRule, h, hr]

theorem writeRule_of_locked {a : Addr} {s : State} {r : Reg} (h : s.regAt a = some r) (hr : regAccess r = .config)
    (hm : s.mode = .run) : writeRule a s = s.raise .cfgLocked s.cw := by
  simp only [writeRule, h, hr, hm, if_true]

/-- Where none of the checks fails, WR stores. -/
theorem writeRule_of_stored {a : Addr} {s : State} {r : Reg} (h : s.regAt a = some r) (hr : regAccess r ≠ .readOnly)
    (hm : s.mode = .run → regAccess r ≠ .config) : writeRule a s = (s.writeReg r s.opa).setRes 0 := by
  simp only [writeRule, h]
  cases hacc : regAccess r with
  | readOnly => exact absurd hacc hr
  | config => exact if_neg fun hrun => hm hrun hacc
  | desired => rfl

theorem execWr_of_not_halted {s : State} (h : s.mode ≠ .halted) (a : Addr) : execWr a s = .next (writeRule a s) :=
  State.hostCommand_allowed h

theorem execWr_of_stored {a : Addr} {s : State} {r : Reg} (h : s.regAt a = some r)
    (hw : s.mode = .config ∧ regAccess r ≠ .readOnly ∨ s.mode = .run ∧ regAccess r = .desired) :
    execWr a s = .next ((s.writeReg r s.opa).setRes 0) := by
  obtain ⟨hm, hr⟩ | ⟨hm, hr⟩ := hw
  · rw [execWr_of_not_halted (by simp [hm]), writeRule_of_stored h hr (by simp [hm])]
  · rw [execWr_of_not_halted (by simp [hm]), writeRule_of_stored h (by simp [hr]) (by simp [hr])]

/-! ### The defined bits of a written word (40_host_interface.md R83) -/

theorem ctrlWord_ctrlOfWord (x : Word) : ctrlWord (ctrlOfWord x) = x &&& 0x00003F01 := by
  apply BitVec.eq_of_getLsbD_eq; intro k hk
  simp only [ctrlWord, ctrlOfWord, BitVec.getLsbD_or, BitVec.getLsbD_and, getLsbD_bitAt]
  interval_cases k <;> simp

theorem clkSrcWord_clkSrcOfWord (x : Word) : clkSrcWord (clkSrcOfWord x) = x &&& 0x800000FF := by
  apply BitVec.eq_of_getLsbD_eq; intro k hk
  simp only [clkSrcWord, clkSrcOfWord, BitVec.getLsbD_or, BitVec.getLsbD_and, getLsbD_bitAt, getLsbD_fieldAt,
    BitVec.getLsbD_extractLsb']
  interval_cases k <;> simp

theorem cctlWord_writeChanReg (ch : Channel) (x : Word) : cctlWord (writeChanReg ch .cctl x) = x &&& 0x00000007 := by
  apply BitVec.eq_of_getLsbD_eq; intro k hk
  simp only [cctlWord, writeChanReg, BitVec.getLsbD_or, BitVec.getLsbD_and, getLsbD_bitAt]
  interval_cases k <;> simp

theorem octlWord_writeOutReg (out : Output) (x : Word) : octlWord (writeOutReg out .octl x) = x &&& 0x00000001 := by
  apply BitVec.eq_of_getLsbD_eq; intro k hk
  simp only [octlWord, writeOutReg, BitVec.getLsbD_and, getLsbD_bitAt]
  interval_cases k <;> simp

/-! ### A channel and an output after a write -/

theorem chanRegWord_writeChanReg_same {f : ChanReg} (hf : f ≠ .reading) (ch : Channel) (b : Bank) (c : Nat) (x : Word) :
    chanRegWord (writeChanReg ch f x) f = x &&& wmask (.chan b c f) := by
  cases f with
  | cctl => exact cctlWord_writeChanReg ch x
  | r1 | r2 | cutoff | vmax | tol => exact BitVec.and_allOnes.symm
  | reading => exact absurd rfl hf

theorem chanRegWord_writeChanReg_ne {f g : ChanReg} (h : g ≠ f) (ch : Channel) (x : Word) :
    chanRegWord (writeChanReg ch f x) g = chanRegWord ch g := by
  cases f <;> cases g <;> first | rfl | exact absurd rfl h

theorem writeChanReg_hist (ch : Channel) (f : ChanReg) (x : Word) : (writeChanReg ch f x).hist = ch.hist := by
  cases f <;> rfl

theorem outRegWord_writeOutReg_same (out : Output) (o : Nat) (f : OutReg) (x : Word) :
    outRegWord (writeOutReg out f x) f = x &&& wmask (.out o f) := by
  cases f with
  | octl => exact octlWord_writeOutReg out x
  | desired => exact BitVec.and_allOnes.symm

theorem outRegWord_writeOutReg_ne {f g : OutReg} (h : g ≠ f) (out : Output) (x : Word) :
    outRegWord (writeOutReg out f x) g = outRegWord out g := by
  cases f <;> cases g <;> first | rfl | exact absurd rfl h

theorem writeOutReg_committed (out : Output) (f : OutReg) (x : Word) :
    (writeOutReg out f x).committed = out.committed := by
  cases f <;> rfl

theorem writeOutReg_dout (out : Output) (f : OutReg) (x : Word) : (writeOutReg out f x).dout = out.dout := by
  cases f <;> rfl

/-! ### What the registers read after an update -/

theorem State.readReg_setRes (s : State) (w : Word) (r : Reg) : (s.setRes w).readReg r = s.readReg r := by
  cases r <;> rfl

theorem State.readReg_setCtrl_ne {r : Reg} (h : r ≠ .ctrl) (s : State) (c : Ctrl) :
    (s.setCtrl c).readReg r = s.readReg r := by
  cases r with
  | ctrl => exact absurd rfl h
  | _ => rfl

/-- The source of a detector is shown in its own register alone: EVENTS shows the levels and the events. -/
theorem State.readReg_setClock_ne {r : Reg} {n : Bool} (h : r ≠ .clkSrc n) (s : State) (src : ClkSrc) :
    (s.setClock n { s.clock n with src := src }).readReg r = s.readReg r := by
  cases r with
  | clkSrc m =>
    obtain rfl : m = !n := by cases m <;> cases n <;> first | rfl | exact absurd rfl h
    simp [State.readReg]
  | _ => cases n <;> rfl

theorem State.readReg_setChan_same {s : State} {b : Bank} {c : Nat} {ch : Channel} (hc : (s.bank b)[c]? = some ch)
    (ch' : Channel) (f : ChanReg) : (s.setChan b c ch').readReg (.chan b c f) = chanRegWord ch' f := by
  have hlt : c < (s.bank b).length := (List.getElem?_eq_some_iff.1 hc).1
  simp [State.readReg, hlt]

theorem State.readReg_setChan_ne {r : Reg} {b : Bank} {c : Nat} (h : ∀ f, r ≠ .chan b c f) (s : State) (ch : Channel) :
    (s.setChan b c ch).readReg r = s.readReg r := by
  cases r with
  | chan b' c' f =>
    by_cases hb : b' = b
    · subst hb
      have hc : c ≠ c' := fun e => h f (by rw [e])
      simp [State.readReg, List.getElem?_set_ne hc]
    · simp [State.readReg, State.bank_setChan_ne s c ch hb]
  | params => exact SameMachine.paramsWord (.setChan s b c ch)
  | _ => cases b <;> rfl

theorem State.readReg_setOutput_same {s : State} {o : Nat} {out : Output} (ho : s.outputs[o]? = some out)
    (out' : Output) (f : OutReg) : (s.setOutput o out').readReg (.out o f) = outRegWord out' f := by
  have hlt : o < s.outputs.length := (List.getElem?_eq_some_iff.1 ho).1
  simp [State.readReg, hlt]

theorem State.readReg_setOutput_ne {r : Reg} {o : Nat} (h : ∀ f, r ≠ .out o f) (s : State) (out : Output) :
    (s.setOutput o out).readReg r = s.readReg r := by
  cases r with
  | out o' f =>
    have ho : o ≠ o' := fun e => h f (by rw [e])
    simp [State.readReg, List.getElem?_set_ne ho]
  | params => simp [State.readReg, paramsWord]
  | _ => rfl

/-! ### What WR stores -/

theorem State.writeReg_chan {s : State} {b : Bank} {c : Nat} {ch : Channel} (hc : (s.bank b)[c]? = some ch)
    (f : ChanReg) (x : Word) : s.writeReg (.chan b c f) x = s.setChan b c (writeChanReg ch f x) := by
  simp only [State.writeReg, hc]

theorem State.writeReg_out {s : State} {o : Nat} {out : Output} (ho : s.outputs[o]? = some out) (f : OutReg)
    (x : Word) : s.writeReg (.out o f) x = s.setOutput o (writeOutReg out f x) := by
  simp only [State.writeReg, ho]

/-- A write to a register that the machine has is read back under its mask (40_host_interface.md R83). -/
theorem State.readReg_writeReg_same {s : State} {r : Reg} (hr : s.hasReg r = true) (ha : regAccess r ≠ .readOnly)
    (x : Word) : (s.writeReg r x).readReg r = x &&& wmask r := by
  cases r with
  | status | fault | faultInfo | events | params => exact absurd rfl ha
  | ctrl => exact ctrlWord_ctrlOfWord x
  | clkSrc n => simpa [State.writeReg, State.readReg, wmask] using clkSrcWord_clkSrcOfWord x
  | chan b c f =>
    have hc := List.getElem?_eq_getElem (of_decide_eq_true hr : c < (s.bank b).length)
    have hf : f ≠ .reading := fun e => ha (by rw [e]; rfl)
    rw [State.writeReg_chan hc, State.readReg_setChan_same hc, chanRegWord_writeChanReg_same hf]
  | out o f =>
    have ho := List.getElem?_eq_getElem (of_decide_eq_true hr : o < s.outputs.length)
    rw [State.writeReg_out ho, State.readReg_setOutput_same ho, outRegWord_writeOutReg_same]

/-- A write leaves the word of every other register (20_memory.md R54). -/
theorem State.readReg_writeReg_ne {s : State} {r q : Reg} (h : q ≠ r) (hr : s.hasReg r = true) (x : Word) :
    (s.writeReg r x).readReg q = s.readReg q := by
  cases r with
  | status | fault | faultInfo | events | params => rfl
  | ctrl => exact State.readReg_setCtrl_ne h s _
  | clkSrc n => exact State.readReg_setClock_ne h s _
  | chan b c f =>
    have hc := List.getElem?_eq_getElem (of_decide_eq_true hr : c < (s.bank b).length)
    rw [State.writeReg_chan hc]
    by_cases hq : ∃ g, q = .chan b c g
    · obtain ⟨g, rfl⟩ := hq
      have hg : g ≠ f := fun e => h (by rw [e])
      rw [State.readReg_setChan_same hc, chanRegWord_writeChanReg_ne hg]
      simp only [State.readReg, hc]
    · exact State.readReg_setChan_ne (fun g e => hq ⟨g, e⟩) s _
  | out o f =>
    have ho := List.getElem?_eq_getElem (of_decide_eq_true hr : o < s.outputs.length)
    rw [State.writeReg_out ho]
    by_cases hq : ∃ g, q = .out o g
    · obtain ⟨g, rfl⟩ := hq
      have hg : g ≠ f := fun e => h (by rw [e])
      rw [State.readReg_setOutput_same ho, outRegWord_writeOutReg_ne hg]
      simp only [State.readReg, ho]
    · exact State.readReg_setOutput_ne (fun g e => hq ⟨g, e⟩) s _

/-! ### What WR leaves -/

/-- A write changes nothing but the records that hold registers. -/
theorem State.writeReg_frame (s : State) (r : Reg) (x : Word) :
    s.writeReg r x = { s with
      ctrl := (s.writeReg r x).ctrl, clk1 := (s.writeReg r x).clk1, clk2 := (s.writeReg r x).clk2,
      inputs := (s.writeReg r x).inputs, pots := (s.writeReg r x).pots, switches := (s.writeReg r x).switches,
      outputs := (s.writeReg r x).outputs } := by
  cases r with
  | status | fault | faultInfo | events | params | ctrl => rfl
  | clkSrc n => cases n <;> rfl
  | chan b c f =>
    cases hc : (s.bank b)[c]? with
    | none => simp only [State.writeReg, hc]
    | some ch => rw [State.writeReg_chan hc]; cases b <;> rfl
  | out o f =>
    cases ho : s.outputs[o]? with
    | none => simp only [State.writeReg, ho]
    | some out => rw [State.writeReg_out ho]; rfl

theorem State.writeReg_hist (s : State) (r : Reg) (x : Word) (b : Bank) :
    ((s.writeReg r x).bank b).map (·.hist) = (s.bank b).map (·.hist) := by
  cases r with
  | status | fault | faultInfo | events | params | ctrl => rfl
  | clkSrc n => simp only [State.writeReg, State.setClock_bank]
  | chan b' c f =>
    cases hc : (s.bank b')[c]? with
    | none => simp only [State.writeReg, hc]
    | some ch =>
      rw [State.writeReg_chan hc]
      by_cases hb : b = b'
      · subst hb
        rw [State.bank_setChan_same, map_set_of_eq _ hc (writeChanReg_hist ch f x)]
      · rw [State.bank_setChan_ne s c _ hb]
  | out o f =>
    cases ho : s.outputs[o]? with
    | none => simp only [State.writeReg, ho]
    | some out => rw [State.writeReg_out ho, State.setOutput_bank]

/-- Whatever a write to an output register leaves of an output, a write leaves of all outputs. -/
theorem State.writeReg_outputs_map {α : Type} (g : Output → α) (hg : ∀ out f x, g (writeOutReg out f x) = g out)
    (s : State) (r : Reg) (x : Word) : (s.writeReg r x).outputs.map g = s.outputs.map g := by
  cases r with
  | status | fault | faultInfo | events | params | ctrl => rfl
  | clkSrc n => simp only [State.writeReg, State.setClock_outputs]
  | chan b c f =>
    cases hc : (s.bank b)[c]? with
    | none => simp only [State.writeReg, hc]
    | some ch => rw [State.writeReg_chan hc, State.setChan_outputs]
  | out o f =>
    cases ho : s.outputs[o]? with
    | none => simp only [State.writeReg, ho]
    | some out => rw [State.writeReg_out ho, State.setOutput_outputs, map_set_of_eq g ho (hg out f x)]

/-! ### Reads by address -/

/-- The same machine maps the same addresses (20_memory.md R48). -/
theorem SameMachine.regAt {s t : State} (h : SameMachine s t) (a : Addr) : t.regAt a = s.regAt a := by
  have hhas : ∀ r, t.hasReg r = s.hasReg r := fun r => by
    cases r with
    | chan b c f => simp only [State.hasReg, h.bank b]
    | out o f => simp only [State.hasReg, h.outputs]
    | _ => rfl
  simp only [State.regAt, hhas]

/-- No register stands at two addresses (20_memory.md R47). -/
theorem State.regAt_inj {s : State} {a a' : Addr} {r : Reg} (h : s.regAt a = some r) (h' : s.regAt a' = some r) :
    a = a' := by
  obtain ⟨ha, -⟩ := State.regAt_eq_some.1 h
  obtain ⟨ha', -⟩ := State.regAt_eq_some.1 h'
  obtain ⟨-, e⟩ := regOfAddr_eq_some_iff.1 ha
  obtain ⟨-, e'⟩ := regOfAddr_eq_some_iff.1 ha'
  exact BitVec.eq_of_toNat_eq (e.symm.trans e')

theorem SameMachine.stored (s : State) (r : Reg) (x : Word) : SameMachine s ((s.writeReg r x).setRes 0) :=
  (SameMachine.writeReg s r x).trans (.of_configView (SilentFrame.setRes _ 0).config)

theorem State.readAt_stored_same {s : State} {a : Addr} {r : Reg} (h : s.regAt a = some r)
    (ha : regAccess r ≠ .readOnly) (x : Word) :
    ((s.writeReg r x).setRes 0).readAt a = some (x &&& wmask r) := by
  obtain ⟨-, hr⟩ := State.regAt_eq_some.1 h
  rw [State.readAt_of_regAt (((SameMachine.stored s r x).regAt a).trans h), State.readReg_setRes,
    State.readReg_writeReg_same hr ha]

theorem State.readAt_stored_ne {s : State} {a a' : Addr} {r : Reg} (h : s.regAt a = some r) (hne : a' ≠ a) (x : Word) :
    ((s.writeReg r x).setRes 0).readAt a' = s.readAt a' := by
  obtain ⟨-, hr⟩ := State.regAt_eq_some.1 h
  have hreg := (SameMachine.stored s r x).regAt a'
  cases hq : s.regAt a' with
  | none => rw [State.readAt_of_unmapped hq, State.readAt_of_unmapped (hreg.trans hq)]
  | some q =>
    have hqr : q ≠ r := fun e => hne (State.regAt_inj (e ▸ hq) h)
    rw [State.readAt_of_regAt hq, State.readAt_of_regAt (hreg.trans hq), State.readReg_setRes,
      State.readReg_writeReg_ne hqr hr]

/-! ### Every input of the host has an answer (40_host_interface.md R84) -/

/-- No host command is refused: an error is a next state, in HALTED (60_exceptions.md R216). -/
theorem exec_answers_of_isHost {i : Instr} (h : i.isHost = true) (s : State) : ∃ t, exec i s = .next t := by
  cases i with
  | nop | rd | wr | start | step | ack | conv | thresh | pct | quant | dacenc => exact ⟨_, rfl⟩
  | uCond | uSmooth | uClkdet | uCommit | uDacxfer | uHook | dacFrame => cases h

theorem step_of_empty {s : State} (h : s.inbox = []) : step s = .next s := by
  simp only [step, fetch, h]

theorem step_of_rst {s : State} {rest : List Input} (h : s.inbox = .rst :: rest) :
    step s = .next { s with inbox := rest }.rst := by
  simp only [step, fetch, h]

theorem step_of_cmd_answers {s : State} {c : Cmd} {rest : List Input} (h : s.inbox = .cmd c :: rest) :
    ∃ t, step s = .next t := by
  cases hlegal : legalCw c.cw with
  | false => exact ⟨_, step_of_illegal (fetch_cmd_illegal h hlegal)⟩
  | true =>
    obtain ⟨i, hi, henc⟩ := legalCw_iff_exists_encode.1 hlegal
    rw [step_of_runs (fetch_cmd h (decode_of_encode_eq henc) hi)]
    exact exec_answers_of_isHost hi _

/-! ### The statements -/

/-- Settles O6: a NOP word with another bit set fails the decoder's arm, and the rule of NOP is what HALTED does too. -/
theorem nopOnlyClearsRes : Obligations.NopOnlyClearsRes := by
  refine ⟨by decide, fun w hopc hbits => ?_, execNop_eq⟩
  refine legalCw_of_reserved (decodeCmd_of_opc_nop hopc) (Bool.and_eq_false_iff.2 ?_)
  simpa only [beq_eq_false_iff_ne] using hbits

/-- Settles O7: the three outcomes of RD. -/
theorem rdAnswersTheRegister : Obligations.RdAnswersTheRegister := by
  intro a s
  refine ⟨congrArg Raw.cmd (mkCw_of_no_flags 0x02 a), fun f hf => ?flags, fun w hw => execRd_of_mapped hw,
    fun hnone hm => (execRd_of_unmapped hnone).trans (congrArg _ (if_pos hm)),
    fun hnone hm => (execRd_of_unmapped hnone).trans (congrArg _ (if_neg hm))⟩
  case flags =>
    refine legalCw_of_reserved (decodeCmd_of_opc_rd (cwOpc_mkCw _ _ _)) ?_
    rwa [cwFlags_mkCw, beq_eq_false_iff_ne]

/-- Settles O8: the check for HALTED, then the checks of WR's rule one by one. -/
theorem wrTurnedAway : Obligations.WrTurnedAway := by
  intro a s
  refine ⟨State.hostCommand_halted, fun hm hr => ?unmapped, fun r hm hr hacc => ?readOnly,
    fun r hm hr hacc => ?locked⟩
  case unmapped => exact (execWr_of_not_halted hm a).trans (by rw [writeRule_of_unmapped hr, State.raise_eq])
  case readOnly => exact (execWr_of_not_halted hm a).trans (by rw [writeRule_of_readOnly hr hacc, State.raise_eq])
  case locked =>
    exact (execWr_of_not_halted (by simp [hm]) a).trans (by rw [writeRule_of_locked hr hacc hm, State.raise_eq])

/-- Settles O9: the register at the address is read back under its mask, every other address names another register, and
the rest is the frame of a write. -/
theorem wrStoresUnderItsMask : Obligations.WrStoresUnderItsMask := by
  intro a s r hr hw
  have hacc : regAccess r ≠ .readOnly := by
    obtain ⟨-, h⟩ | ⟨-, h⟩ := hw
    · exact h
    · simp [h]
  refine ⟨(s.writeReg r s.opa).setRes 0, execWr_of_stored hr hw, State.readAt_stored_same hr hacc _,
    fun a' hne => State.readAt_stored_ne hr hne _, rfl, ?_⟩
  have hhist : ∀ b, (((s.writeReg r s.opa).setRes 0).bank b).map (·.hist) = (s.bank b).map (·.hist) := fun b => by
    rw [State.setRes_bank, State.writeReg_hist]
  have hcommitted := s.writeReg_outputs_map (·.committed) writeOutReg_committed r s.opa
  have hdout := s.writeReg_outputs_map (·.dout) writeOutReg_dout r s.opa
  have hframe := State.writeReg_frame s r s.opa
  exact ⟨congrArg (·.mode) hframe, congrArg (·.hook) hframe, congrArg (·.phase) hframe, congrArg (·.faultCode) hframe,
    congrArg (·.faultInfo) hframe, congrArg (·.cw) hframe, congrArg (·.opa) hframe, congrArg (·.opb) hframe,
    congrArg (·.opc) hframe, congrArg (·.params) hframe, congrArg (·.inbox) hframe, congrArg (·.samples) hframe,
    congrArg (·.free) hframe, congrArg (·.pins) hframe, congrArg (·.trace) hframe, hhist, hcommitted, hdout⟩

/-- Settles O54: what a host can present is a command or RST, and a command is legal and answers, or is illegal and
raises. -/
theorem stepAlwaysAnswers : Obligations.StepAlwaysAnswers := by
  intro s hinv
  cases hin : s.inbox with
  | nil => exact ⟨s, step_of_empty hin⟩
  | cons x rest =>
    have hhost : x.fromHost = true := hinv.hostOnly x (by simp [hin])
    cases x with
    | rst => exact ⟨_, step_of_rst hin⟩
    | cmd c => exact step_of_cmd_answers hin
    | micro | frame => cases hhost

end Sys2Proof.Machine
end

section
/-! SUPPORT. The conversion, the percentage and the mean of the Signal Conditioner in closed form, what its instructions
answer, and the statements of 41_signal_conditioner.md. -/

namespace Sys2Proof.Machine

/-! ### The conversion (41_signal_conditioner.md R120, R122) -/

/-- The exact value of conv as a natural number, for a legal divider (R120). -/
def convMv (p : Params) (smp r1 r2 : Nat) : Nat :=
  if r1 = 0 ∧ r2 = 0 then smp * vrefMv p / adcRes p else smp * vrefMv p * (r1 + r2) / (adcRes p * r2)

theorem convExact_eq_convMv (p : Params) (smp r1 r2 : Nat) : convExact p smp r1 r2 = convMv p smp r1 r2 := by
  unfold convExact convMv floorDiv
  split <;> push_cast <;> rfl

theorem convMv_of_no_divider (p : Params) (smp : Nat) : convMv p smp 0 0 = smp * vrefMv p / adcRes p :=
  if_pos ⟨rfl, rfl⟩

theorem convMv_of_divider (p : Params) (smp r1 : Nat) {r2 : Nat} (h : 0 < r2) :
    convMv p smp r1 r2 = smp * vrefMv p * (r1 + r2) / (adcRes p * r2) :=
  if_neg fun h0 => h.ne' h0.2

/-- With r1 = 0 the factor (r1 + r2) / r2 is 1. -/
theorem convMv_r1_zero (p : Params) (smp : Nat) {r2 : Nat} (h : 0 < r2) : convMv p smp 0 r2 = convMv p smp 0 0 := by
  rw [convMv_of_divider p smp 0 h, convMv_of_no_divider, Nat.zero_add, Nat.mul_div_mul_right _ _ h]

theorem convMv_mono (p : Params) {smp smp' : Nat} (r1 r2 : Nat) (h : smp ≤ smp') :
    convMv p smp r1 r2 ≤ convMv p smp' r1 r2 := by
  have hv : smp * vrefMv p ≤ smp' * vrefMv p := Nat.mul_le_mul_right _ h
  unfold convMv
  split
  · exact Nat.div_le_div_right hv
  · exact Nat.div_le_div_right (Nat.mul_le_mul_right _ hv)

theorem convMv_le_of_divider (p : Params) (smp r1 : Nat) {r2 : Nat} (h : 0 < r2) :
    convMv p smp 0 0 ≤ convMv p smp r1 r2 := by
  rw [← convMv_r1_zero p smp h, convMv_of_divider p smp 0 h, convMv_of_divider p smp r1 h]
  exact Nat.div_le_div_right (Nat.mul_le_mul_left _ (by omega))

/-- A natural number fits a signed word up to 2^31 − 1 (00_scope.md R9). -/
theorem fits32_natCast (n : Nat) : fits32 n = decide (n ≤ 2147483647) := by
  have hlow : (-2147483648 : Int) ≤ n := by omega
  simp only [fits32, hlow, decide_true, Bool.true_and, decide_eq_decide]
  omega

theorem w32_natCast (n : Nat) : w32 n = BitVec.ofNat 32 n := BitVec.ofInt_natCast 32 n

theorem conv_r1_zero (p : Params) (smp : Nat) {r2 : Nat} (h : 0 < r2) : conv p smp 0 r2 = conv p smp 0 0 := by
  simp only [conv, convExact_eq_convMv, convMv_r1_zero p smp h, ne_eq, not_true_eq_false, false_and]

theorem conv_of_range {p : Params} {smp r1 r2 : Nat} (hd : r1 = 0 ∨ r2 ≠ 0) (hr : 2147483647 < convMv p smp r1 r2) :
    conv p smp r1 r2 = .error .range := by
  refine conv_eq_error.2 (.inr ⟨hd, ?_, rfl⟩)
  rw [convExact_eq_convMv, fits32_natCast, decide_eq_false (by omega)]

theorem conv_of_fits {p : Params} {smp r1 r2 : Nat} (hd : r1 = 0 ∨ r2 ≠ 0) (hr : convMv p smp r1 r2 ≤ 2147483647) :
    conv p smp r1 r2 = .ok (BitVec.ofNat 32 (convMv p smp r1 r2)) := by
  refine conv_eq_ok.2 ⟨hd, ?_, ?_⟩ <;> rw [convExact_eq_convMv]
  · rw [fits32_natCast, decide_eq_true hr]
  · exact w32_natCast _

/-! ### The percentage (41_signal_conditioner.md R127, R129) -/

theorem clamp_eq_max_min (x : Int) {lo hi : Int} (h : lo ≤ hi) : clamp x lo hi = max lo (min hi x) := by
  unfold clamp
  split_ifs <;> omega

theorem floorMod_eq_emod (a b : Int) : floorMod a b = a % b := (Int.emod_def a b).symm

/-- The floor percentage of `mv` over `vmax`, clamped, before the tolerance (R127). -/
def percent (mv : Int) (vmax : Nat) : Int := max 0 (min 100 (mv * 100 / vmax))

theorem pctExact_eq_percent (mv : Int) (vmax tol : Nat) (rev : Bool) : pctExact mv vmax tol rev =
    if rev then 100 - (percent mv vmax - percent mv vmax % tol) else percent mv vmax - percent mv vmax % tol := by
  simp only [pctExact, clamp_eq_max_min _ (show (0 : Int) ≤ 100 by decide), floorMod_eq_emod, floorDiv, percent]

theorem pctExact_forward (mv : Int) (vmax tol : Nat) :
    pctExact mv vmax tol false = percent mv vmax - percent mv vmax % tol := pctExact_eq_percent mv vmax tol false

/-- The reversed percentage (R127). -/
theorem pctExact_reversed (mv : Int) (vmax tol : Nat) : pctExact mv vmax tol true = 100 - pctExact mv vmax tol false :=
  rfl

theorem percent_bounds (mv : Int) (vmax : Nat) : 0 ≤ percent mv vmax ∧ percent mv vmax ≤ 100 := by
  unfold percent; omega

theorem percent_of_ge {mv : Int} {vmax : Nat} (hv : 0 < vmax) (h : vmax ≤ mv) : percent mv vmax = 100 := by
  have hq : 100 ≤ mv * 100 / vmax := by
    rw [Int.le_ediv_iff_mul_le (by omega)]; omega
  unfold percent; omega

theorem percent_of_nonpos {mv : Int} {vmax : Nat} (hv : 0 < vmax) (h : mv ≤ 0) : percent mv vmax = 0 := by
  have hq : mv * 100 / vmax ≤ 0 := by
    rw [← Int.lt_add_one_iff, Int.ediv_lt_iff_lt_mul (by omega)]; omega
  unfold percent; omega

/-- A granularity coarser than the whole range leaves nothing (R129). -/
theorem pctExact_of_coarse {tol : Nat} (h : 100 < tol) (mv : Int) (vmax : Nat) : pctExact mv vmax tol false = 0 := by
  obtain ⟨h0, h100⟩ := percent_bounds mv vmax
  rw [pctExact_forward, Int.emod_eq_of_lt h0 (by omega), Int.sub_self]

theorem pctExact_of_nonpos {mv : Int} {vmax : Nat} (hv : 0 < vmax) (h : mv ≤ 0) (tol : Nat) :
    pctExact mv vmax tol false = 0 := by
  rw [pctExact_forward, percent_of_nonpos hv h, Int.zero_emod, Int.sub_self]

theorem dvd_pctExact_forward (mv : Int) (vmax tol : Nat) : (tol : Int) ∣ pctExact mv vmax tol false := by
  rw [pctExact_forward]
  exact Int.dvd_self_sub_emod

theorem pct_of_divZero {mv vmax tol : Word} {rev : Bool} (h : u32 vmax = 0 ∨ u32 tol = 0) :
    pct mv vmax tol rev = .error .divZero := if_pos h

theorem pct_of_nonzero {mv vmax tol : Word} {rev : Bool} (h : ¬(u32 vmax = 0 ∨ u32 tol = 0)) :
    pct mv vmax tol rev = .ok (w32 (pctExact (s32 mv) (u32 vmax) (u32 tol) rev)) := if_neg h

/-! ### The comparison (41_signal_conditioner.md R126) -/

theorem threshVal_eq (mv cut : Word) : threshVal mv cut = if mv.toInt > cut.toInt then 1 else 0 := by
  unfold threshVal boolWord s32
  by_cases h : mv.toInt > cut.toInt <;> simp [h]

/-! ### The history (41_signal_conditioner.md R123, R125) -/

/-- The eight readings of a history, oldest first. -/
def Hist.readings (h : Hist) : List Word := [h.h0, h.h1, h.h2, h.h3, h.h4, h.h5, h.h6, h.h7]

theorem Hist.length_readings (h : Hist) : h.readings.length = 8 := rfl

theorem histSum_eq_sum (h : Hist) : histSum h = (h.readings.map s32).sum := by
  simp only [histSum, Hist.readings, List.map_cons, List.map_nil, List.sum_cons, List.sum_nil]
  omega

/-- A push drops the oldest reading and appends the new one (R123). -/
theorem readings_histPush (h : Hist) (mv : Word) : (histPush h mv).readings = (h.readings ++ [mv]).drop 1 := rfl

/-- After any number of pushes a history is the end of all its readings. -/
theorem readings_foldl_histPush (h : Hist) (xs : List Word) :
    (xs.foldl histPush h).readings = (h.readings ++ xs).drop xs.length := by
  induction xs generalizing h with
  | nil => simp
  | cons x xs ih =>
    have hcons : h.readings ++ x :: xs = h.readings ++ [x] ++ xs := by simp
    rw [List.foldl_cons, ih, readings_histPush, hcons, ← List.drop_append_of_le_length (by simp), List.drop_drop,
      List.length_cons, Nat.add_comm]

/-- The smoothed reading after any number of readings is the floor of the mean of the last eight of all. -/
theorem s32_histMean_foldl (h : Hist) (xs : List Word) :
    s32 (histMean (xs.foldl histPush h)) = (((h.readings ++ xs).drop xs.length).map s32).sum / 8 := by
  rw [s32_histMean, histSum_eq_sum, readings_foldl_histPush]

/-- After eight readings the history before them is gone (R125 (a)). -/
theorem s32_histMean_of_eight {xs : List Word} (hlen : 8 ≤ xs.length) (h : Hist) :
    s32 (histMean (xs.foldl histPush h)) = ((xs.drop (xs.length - 8)).map s32).sum / 8 := by
  rw [s32_histMean_foldl, List.drop_append, List.drop_eq_nil_of_le (by rw [h.length_readings]; exact hlen),
    List.nil_append, h.length_readings]

/-- Before eight readings the reset history adds zeros (R125 (b)). -/
theorem s32_histMean_of_reset {xs : List Word} (hlen : xs.length < 8) :
    s32 (histMean (xs.foldl histPush Hist.reset)) = (xs.map s32).sum / 8 := by
  have hreset : Hist.reset.readings = List.replicate 8 0 := rfl
  rw [s32_histMean_foldl, List.drop_append_of_le_length (by rw [Hist.length_readings]; omega), hreset,
    List.drop_replicate, List.map_append, List.sum_append, List.map_replicate, List.sum_replicate]
  simp [s32]

/-- Eight equal readings have themselves as their mean (R125 (c)). -/
theorem histMean_of_constant (h : Hist) (x : Word) : histMean ((List.replicate 8 x).foldl histPush h) = x := by
  apply BitVec.eq_of_toInt_eq
  have hmean := s32_histMean_of_eight (xs := List.replicate 8 x) (by simp) h
  rw [List.length_replicate, Nat.sub_self, List.drop_zero, List.map_replicate, List.sum_replicate] at hmean
  simpa [s32] using hmean

/-! ### The host commands CONV and PCT (41_signal_conditioner.md R121, R128) -/

/-- CONV's rule checks the divider, the sample and the size of the value, in this order (R121). -/
theorem convRule_eq (s : State) : convRule s =
    if s.opb.toNat ≠ 0 ∧ s.opc.toNat = 0 then s.raise .divZero s.cw
    else if adcMax s.params < s.opa.toNat ∨ 2147483647 < convMv s.params s.opa.toNat s.opb.toNat s.opc.toNat then
      s.raise .range s.cw
    else s.setRes (BitVec.ofNat 32 (convMv s.params s.opa.toNat s.opb.toNat s.opc.toNat)) := by
  unfold convRule u32
  by_cases hd : s.opb.toNat ≠ 0 ∧ s.opc.toNat = 0
  · rw [if_pos hd, if_pos hd]
  rw [if_neg hd, if_neg hd]
  by_cases hs : adcMax s.params < s.opa.toNat
  · rw [if_pos hs, if_pos (.inl hs)]
  rw [if_neg hs]
  by_cases hx : 2147483647 < convMv s.params s.opa.toNat s.opb.toNat s.opc.toNat
  · rw [conv_of_range (by omega) hx, if_pos (.inr hx)]
  · rw [conv_of_fits (by omega) (Nat.le_of_not_lt hx), if_neg (not_or.2 ⟨hs, hx⟩)]

theorem pctRule_of_divZero {s : State} (h : s.opb.toNat = 0 ∨ s.opc.toNat = 0) (rev : Bool) :
    pctRule rev s = s.raise .divZero s.cw := by
  simp only [pctRule, pct_of_divZero h]

theorem pctRule_of_nonzero {s : State} (h : ¬(s.opb.toNat = 0 ∨ s.opc.toNat = 0)) (rev : Bool) :
    pctRule rev s = s.setRes (w32 (pctExact s.opa.toInt s.opb.toNat s.opc.toNat rev)) := by
  simp only [pctRule, pct_of_nonzero h, s32, u32]

theorem exec_conv_of_not_halted {s : State} (h : s.mode ≠ .halted) : exec .conv s = .next (convRule s) :=
  State.hostCommand_allowed h

theorem exec_thresh_of_not_halted {s : State} (h : s.mode ≠ .halted) :
    exec .thresh s = .next (s.setRes (threshVal s.opa s.opb)) :=
  State.hostCommand_allowed (rule := fun s => s.setRes (threshVal s.opa s.opb)) h

theorem exec_pct_of_not_halted {s : State} (h : s.mode ≠ .halted) (rev : Bool) :
    exec (.pct rev) s = .next (pctRule rev s) :=
  State.hostCommand_allowed h

/-! ### The micro-operations U_SMOOTH and U_COND (41_signal_conditioner.md R124, R130, R131) -/

theorem bankCode_of_bankOfCode {k : BitVec 2} {b : Bank} (h : bankOfCode k = some b) : bankCode b = k.toNat := by
  unfold bankOfCode at h
  split_ifs at h with h1 h2 h3 <;> cases h <;> subst k <;> rfl

theorem exec_uSmooth_of_channel {s : State} {k : BitVec 2} {c : BitVec 16} {b : Bank} {ch : Channel}
    (hk : bankOfCode k = some b) (hc : (s.bank b)[c.toNat]? = some ch) :
    exec (.uSmooth k c) s = .next (s.setChan b c.toNat { ch with hist := histPush ch.hist s.opa }) := by
  simp only [exec, execUSmooth, hk, if_pos (List.getElem?_eq_some_iff.1 hc).1, smoothChan_of_some s.opa hc]

theorem exec_uCond_of_channel {s : State} {k : BitVec 2} {c : BitVec 16} {b : Bank} {ch : Channel}
    (hk : bankOfCode k = some b) (hc : (s.bank b)[c.toNat]? = some ch) :
    exec (.uCond k c) s = .next (condChan b c.toNat s) := by
  simp only [exec, execUCond, hk, if_pos (List.getElem?_eq_some_iff.1 hc).1]

/-- A channel whose reading is converted and published is conditioned (R131). -/
theorem conditioned_of_ok {p : Params} {b : Bank} {smp : Nat} {ch : Channel} {mv v : Word}
    (hmv : conv p smp (u32 ch.r1) (u32 ch.r2) = .ok mv) (hv : publishValue b ch (smoothedValue ch mv) = .ok v) :
    conditioned p b smp ch =
      some { ch with hist := if ch.smooth then histPush ch.hist mv else ch.hist, reading := v } := by
  simp only [conditioned, hmv, hv]

/-- A conversion that raises ends U_COND after its draw (R131). -/
theorem condChan_of_conv_error {s : State} {b : Bank} {c : Nat} {ch : Channel} {code : FaultCode}
    (hc : (s.bank b)[c]? = some ch) (hcv : conv s.params s.sample (u32 ch.r1) (u32 ch.r2) = .error code) :
    condChan b c s = s.afterSample.raise code (readingInfo b c) := by
  simp only [condChan, hc, hcv]

/-- What a channel exposes of its smoothed reading `v` (R130), where a pot has a maximum and a granularity. -/
def published (b : Bank) (ch : Channel) (v : Word) : Word :=
  match b with
  | .inputs => if ch.digital then threshVal v ch.cutoff else v
  | .pots => w32 (pctExact (s32 v) (u32 ch.vmax) (u32 ch.tol) ch.rev)
  | .switches => threshVal v ch.cutoff

theorem publishValue_eq_ok {b : Bank} {ch : Channel} (hp : b = .pots → ch.vmax ≠ 0 ∧ ch.tol ≠ 0) (v : Word) :
    publishValue b ch v = .ok (published b ch v) := by
  cases b with
  | inputs | switches => rfl
  | pots =>
    obtain ⟨hvmax, htol⟩ := hp rfl
    exact pct_of_nonzero (not_or.2
      ⟨fun h => hvmax (BitVec.eq_of_toNat_eq h), fun h => htol (BitVec.eq_of_toNat_eq h)⟩)

/-- The smoothed reading is the mean of the history after the reading (R130). -/
theorem smoothedValue_eq_mean (ch : Channel) (mv : Word) : smoothedValue ch mv =
    if ch.smooth then histMean (if ch.smooth then histPush ch.hist mv else ch.hist) else mv := by
  unfold smoothedValue
  split <;> rfl

/-! ### A conditioning phase over listed samples (41_signal_conditioner.md R132, log entry 3) -/

theorem drawAt_of_listed {s : State} {n : Nat} {x : BitVec 24} (h : s.samples[n]? = some x) :
    drawAt s n = x.toNat % 2 ^ adcBits s.params := by
  simp only [drawAt, h]

theorem State.drawn_of_listed {s : State} {n : Nat} (h : n ≤ s.samples.length) :
    s.drawn n = { s with samples := s.samples.drop n } := by
  simp only [State.drawn, Nat.sub_eq_zero_of_le h, Nat.add_zero]

theorem CondUpTo.mode {b : Bank} {s t : State} {k : Nat} (h : CondUpTo b s k t) : t.mode = s.mode := by
  rw [h.rest, State.setBank_mode]
  rfl

/-- A phase none of whose channels raises conditions them all (R132). -/
theorem condBank_of_conditioned {b : Bank} {s : State} (hm : s.mode ≠ .halted)
    (hall : ∀ c ch, (s.bank b)[c]? = some ch → ∃ ch', conditioned s.params b (drawAt s c) ch = some ch') :
    CondUpTo b s (s.bank b).length (condBank b s) := by
  refine condBank_induct (CondUpTo b s) (.refl b s) (fun k t ht h => absurd (h.mode ▸ ht) hm) fun k t hk _ h => ?_
  have hc : (s.bank b)[k]? = some (s.bank b)[k] := List.getElem?_eq_getElem hk
  obtain ⟨ch', hd⟩ := hall k _ hc
  exact h.step hc hd

/-- The bank after a phase is the list of its conditioned channels. -/
theorem CondUpTo.bank_eq {b : Bank} {s t : State} {l : List Channel} (h : CondUpTo b s (s.bank b).length t)
    (hlen : l.length = (s.bank b).length)
    (hl : ∀ c ch, (s.bank b)[c]? = some ch → conditioned s.params b (drawAt s c) ch = l[c]?) : t.bank b = l := by
  apply List.ext_getElem?
  intro c
  by_cases hlt : c < (s.bank b).length
  · have hc : (s.bank b)[c]? = some (s.bank b)[c] := List.getElem?_eq_getElem hlt
    obtain ⟨ch', hd, ht⟩ := h.before c _ hlt hc
    rw [ht, ← hl c _ hc, hd]
  · rw [List.getElem?_eq_none (by rw [h.length]; omega), List.getElem?_eq_none (by omega)]

/-- The n-th entry of a bank conditioned from listed samples is its n-th channel conditioned from the n-th draw. -/
theorem conditioned_of_zipWith {b : Bank} {s : State} {l : List Channel} (hlen : (s.bank b).length ≤ s.samples.length)
    (hz : List.zipWith (fun x ch => conditioned s.params b (x.toNat % 2 ^ adcBits s.params) ch)
      s.samples (s.bank b) = l.map some) {c : Nat} {ch : Channel} (hc : (s.bank b)[c]? = some ch) :
    conditioned s.params b (drawAt s c) ch = l[c]? := by
  have hlt : c < s.samples.length := lt_of_lt_of_le (List.getElem?_eq_some_iff.1 hc).1 hlen
  have hx : s.samples[c]? = some s.samples[c] := List.getElem?_eq_getElem hlt
  have hentry := congrArg (·[c]?) hz
  simp only [List.getElem?_zipWith, hx, hc, List.getElem?_map] at hentry
  rw [drawAt_of_listed hx]
  cases hlc : l[c]? <;> simp_all

/-! ### The statements -/

/-- Settles O13: DIV_ZERO, then both causes of RANGE, then the value. -/
theorem convConverts : Obligations.ConvConverts :=
  ⟨rfl, fun s hm => (exec_conv_of_not_halted hm).trans (congrArg _ (convRule_eq s))⟩

/-- Settles O14: the three facts about the value of conv as a natural number. -/
theorem convProperties : Obligations.ConvProperties := by
  intro p smp smp' r1 r2
  simp only [convExact_eq_convMv, Int.ofNat_le]
  exact ⟨conv_r1_zero p smp, convMv_mono p r1 r2, convMv_le_of_divider p smp r1⟩

/-- Settles O15: a history is the end of all its readings. -/
theorem smoothingOverReadings : Obligations.SmoothingOverReadings :=
  ⟨fun h _ hlen => s32_histMean_of_eight hlen h, fun _ hlen => s32_histMean_of_reset hlen, histMean_of_constant⟩

/-- Settles O16: the history of an existing channel is pushed. -/
theorem uSmoothShiftsTheHistory : Obligations.USmoothShiftsTheHistory :=
  fun _ _ _ _ _ hk hc => exec_uSmooth_of_channel hk hc

/-- Settles O17: outside HALTED the comparison is answered. -/
theorem threshCompares : Obligations.ThreshCompares :=
  ⟨rfl, fun s hm => by rw [exec_thresh_of_not_halted hm, threshVal_eq]; rfl⟩

/-- Settles O18: DIV_ZERO, then the percentage. -/
theorem pctComputes : Obligations.PctComputes := by
  refine ⟨rfl, rfl, fun s rev hm => (exec_pct_of_not_halted hm rev).trans (congrArg _ ?_)⟩
  by_cases hz : s.opb.toNat = 0 ∨ s.opc.toNat = 0
  · rw [pctRule_of_divZero hz]
    exact (if_pos (by omega)).symm
  · rw [pctRule_of_nonzero hz, pctExact_eq_percent]
    exact (if_neg (by omega)).symm

/-- Settles O19: the percentage before the tolerance is 100 or 0 at the corners, and what the tolerance leaves is a
multiple of it. -/
theorem pctCorners : Obligations.PctCorners := by
  intro mv vmax tol hv ht
  refine ⟨fun h => ?full, fun h => ?empty, fun h => ?exact, fun h => ?coarse, ?multiple,
    pctExact_range mv vmax tol⟩
  case full =>
    have hfull : pctExact mv vmax tol false = 100 - 100 % (tol : Int) := by
      rw [pctExact_forward, percent_of_ge hv h]
    refine ⟨hfull, fun hdvd => ?_, fun h3 => by rw [hfull, h3]; rfl⟩
    rw [hfull, Int.emod_eq_zero_of_dvd (by exact_mod_cast hdvd), Int.sub_zero]
  case empty => exact ⟨pctExact_of_nonpos hv h tol, by rw [pctExact_reversed, pctExact_of_nonpos hv h]; rfl⟩
  case exact => rw [pctExact_forward, h, Nat.cast_one, Int.emod_one, Int.sub_zero, percent]
  case coarse => exact ⟨pctExact_of_coarse h mv vmax, by rw [pctExact_reversed, pctExact_of_coarse h]; rfl⟩
  case multiple =>
    rw [pctExact_reversed, dvd_sub_left (dvd_pctExact_forward mv vmax tol)]
    exact_mod_cast Iff.rfl

/-- Settles O21: where nothing is raised the channel is replaced by the conditioned one. -/
theorem uCondConditionsItsChannel : Obligations.UCondConditionsItsChannel := by
  intro s k c b ch mv hk hc hmv hp
  have hd := conditioned_of_ok hmv (publishValue_eq_ok hp (smoothedValue ch mv))
  rw [exec_uCond_of_channel hk hc, condChan_of_conditioned hc hd, State.setChan, State.afterSample_bank,
    smoothedValue_eq_mean]
  cases b with
  | inputs | switches => simp only [published, threshVal_eq]
  | pots => rfl

/-- Settles O22: the conversion raises before anything is written. -/
theorem uCondRaisesRange : Obligations.UCondRaisesRange := by
  intro s k c b ch hk hc hd hr
  rw [convExact_eq_convMv] at hr
  have hcv : conv s.params s.sample (u32 ch.r1) (u32 ch.r2) = .error .range :=
    conv_of_range hd (by exact_mod_cast hr)
  rw [exec_uCond_of_channel hk hc, condChan_of_conv_error hc hcv, State.raise_eq, readingInfo, chanRegAddr,
    bankCode_of_bankOfCode hk]
  rfl

/-- Settles O23: no channel raises, so the phase conditions each from its own draw, all of which are listed. -/
theorem conditioningPhaseMapsTheBank : Obligations.ConditioningPhaseMapsTheBank := by
  intro s b l hm hlen hz
  have hl : ∀ c ch, (s.bank b)[c]? = some ch → conditioned s.params b (drawAt s c) ch = l[c]? :=
    fun _ _ => conditioned_of_zipWith hlen hz
  have hll : l.length = (s.bank b).length := by
    have := congrArg List.length hz
    simp only [List.length_zipWith, List.length_map] at this
    omega
  have hup : CondUpTo b s (s.bank b).length (condBank b s) := by
    refine condBank_of_conditioned hm fun c ch hc => ?_
    have hlt : c < l.length := hll ▸ (List.getElem?_eq_some_iff.1 hc).1
    exact ⟨l[c], (hl c ch hc).trans (List.getElem?_eq_getElem hlt)⟩
  rw [hup.rest, hup.bank_eq hll hl, State.drawn_of_listed hlen]

end Sys2Proof.Machine
end

section
/-! SUPPORT. What U_CLKDET makes of the level of its source, the events of a detector over the cycles, and the statements
of 42_clock_edge_detector.md. -/

namespace Sys2Proof.Machine

/-! ### U_CLKDET on the level of its source (42_clock_edge_detector.md R137 to R140) -/

theorem State.setClock_clock_self (s : State) (n : Bool) : s.setClock n (s.clock n) = s := by cases n <;> rfl

theorem State.setHook_hook_setClock (s : State) (n : Bool) (c : Clock) :
    (s.setClock n c).setHook s.hook = s.setClock n c := by cases n <;> rfl

/-- The level of an existing source (R137). -/
theorem clockLevel_of_channel {s : State} {idx : BitVec 8} {ch : Channel} (hch : s.inputs[idx.toNat]? = some ch) :
    clockLevel s idx = decide (ch.reading ≠ 0) := by
  have hzero : s32 ch.reading = 0 ↔ ch.reading = 0 := BitVec.toInt_inj (y := 0)
  simp only [clockLevel, hch, ne_eq, hzero]

theorem clkdet_of_disabled {second : Bool} {s : State} (h : (s.clock second).src.en = false) :
    clkdet second s = s :=
  if_pos h

section Enabled

variable {second : Bool} {s : State}

theorem clkdet_of_rise (hen : (s.clock second).src.en = true) (hold : (s.clock second).level = false)
    (hnew : clockLevel s (s.clock second).src.idx = true) :
    clkdet second s = (s.setClock second { s.clock second with level := true, rise := true }).setHook
      (if heRise s.ctrl second then riseHook second else s.hook) := by
  cases he : heRise s.ctrl second <;>
    simp [clkdet, detect, edgeHook, hen, hold, hnew, he, State.requestHook, State.setHook_hook_setClock]

theorem clkdet_of_fall (hen : (s.clock second).src.en = true) (hold : (s.clock second).level = true)
    (hnew : clockLevel s (s.clock second).src.idx = false) :
    clkdet second s = (s.setClock second { s.clock second with level := false, fall := true }).setHook
      (if heFall s.ctrl second then fallHook second else s.hook) := by
  cases he : heFall s.ctrl second <;>
    simp [clkdet, detect, edgeHook, hen, hold, hnew, he, State.requestHook, State.setHook_hook_setClock]

theorem clkdet_of_steady (hlv : clockLevel s (s.clock second).src.idx = (s.clock second).level) :
    clkdet second s = s := by
  cases hold : (s.clock second).level <;>
    simp [clkdet, detect, edgeHook, hlv, hold, State.setClock_clock_self]

/-- U_CLKDET of an enabled detector, by its level and the reading of its source (R138, R140). -/
theorem clkdet_of_channel {ch : Channel} (hen : (s.clock second).src.en = true)
    (hch : s.inputs[(s.clock second).src.idx.toNat]? = some ch) :
    clkdet second s =
      if (s.clock second).level = false ∧ ch.reading ≠ 0 then
        (s.setClock second { s.clock second with level := true, rise := true }).setHook
          (if heRise s.ctrl second then riseHook second else s.hook)
      else if (s.clock second).level = true ∧ ch.reading = 0 then
        (s.setClock second { s.clock second with level := false, fall := true }).setHook
          (if heFall s.ctrl second then fallHook second else s.hook)
      else s := by
  have hnew := clockLevel_of_channel hch
  by_cases hrise : (s.clock second).level = false ∧ ch.reading ≠ 0
  · rw [if_pos hrise]
    exact clkdet_of_rise hen hrise.1 (by rw [hnew, decide_eq_true hrise.2])
  rw [if_neg hrise]
  by_cases hfall : (s.clock second).level = true ∧ ch.reading = 0
  · rw [if_pos hfall]
    exact clkdet_of_fall hen hfall.1 (by rw [hnew, decide_eq_false (not_not_intro hfall.2)])
  rw [if_neg hfall]
  refine clkdet_of_steady ?_
  rw [hnew]
  cases hold : (s.clock second).level <;> simp_all

end Enabled

theorem exec_uClkdet_of_disabled {second : Bool} {s : State} (h : (s.clock second).src.en = false) :
    exec (.uClkdet second) s = .next s := by
  simp only [exec, execUClkdet, clockReadable, h, clkdet_of_disabled h, Bool.not_false, Bool.true_or, if_true]

theorem exec_uClkdet_of_channel {second : Bool} {s : State} {ch : Channel}
    (hch : s.inputs[(s.clock second).src.idx.toNat]? = some ch) :
    exec (.uClkdet second) s = .next (clkdet second s) := by
  have hlt := (List.getElem?_eq_some_iff.1 hch).1
  simp only [exec, execUClkdet, clockReadable, decide_eq_true hlt, Bool.or_true, if_true]

/-! ### The events of a detector over the cycles (42_clock_edge_detector.md R141) -/

theorem detectCycle_level (c : Clock) (lv : Bool) : (detectCycle c lv).level = lv := by
  cases hc : c.level <;> cases lv <;> simp [detectCycle, detect, hc]

theorem detectCycle_rise (c : Clock) (lv : Bool) : (detectCycle c lv).rise = (!c.level && lv) := by
  cases hc : c.level <;> cases lv <;> simp [detectCycle, detect, hc]

theorem detectCycle_fall (c : Clock) (lv : Bool) : (detectCycle c lv).fall = (c.level && !lv) := by
  cases hc : c.level <;> cases lv <;> simp [detectCycle, detect, hc]

/-- The events are read off each level and the one before it (R141 (a)). -/
theorem edgeEvents_eq_zipWith (c : Clock) (ls : List Bool) :
    edgeEvents c ls = List.zipWith (fun old lv => (!old && lv, old && !lv)) (c.level :: ls) ls := by
  induction ls generalizing c with
  | nil => rfl
  | cons lv rest ih =>
    rw [edgeEvents, ih, detectCycle_level, detectCycle_rise, detectCycle_fall, List.zipWith_cons_cons]

theorem take_edgeEvents (c : Clock) (ls : List Bool) (n : Nat) :
    (edgeEvents c ls).take n = edgeEvents c (ls.take n) := by
  induction ls generalizing c n with
  | nil => simp [edgeEvents]
  | cons lv rest ih =>
    cases n with
    | zero => rfl
    | succ n => rw [edgeEvents, List.take_succ_cons, List.take_succ_cons, ih, edgeEvents]

/-- Rises and falls balance up to the change of level between the first cycle and the last (R141 (b)). -/
theorem countP_edgeEvents_balance (c : Clock) (ls : List Bool) :
    (edgeEvents c ls).countP (·.1) + c.level.toNat =
      (edgeEvents c ls).countP (·.2) + (ls.foldl detectCycle c).level.toNat := by
  induction ls generalizing c with
  | nil => rfl
  | cons lv rest ih =>
    have hrest := ih (detectCycle c lv)
    rw [detectCycle_level] at hrest
    rw [edgeEvents, List.countP_cons, List.countP_cons, List.foldl_cons, detectCycle_rise, detectCycle_fall]
    cases c.level <;> cases lv <;> simp at hrest ⊢ <;> omega

/-- One cycle gives at most one event (R141 (c)). -/
theorem not_rise_and_fall_of_mem_edgeEvents {c : Clock} {ls : List Bool} {e : Bool × Bool}
    (he : e ∈ edgeEvents c ls) : ¬(e.1 = true ∧ e.2 = true) := by
  induction ls generalizing c with
  | nil => cases he
  | cons lv rest ih =>
    rw [edgeEvents, List.mem_cons] at he
    obtain rfl | hrest := he
    · rw [detectCycle_rise, detectCycle_fall]
      cases lv <;> simp
    · exact ih hrest

/-! ### The statements -/

/-- Settles O24: each detector is one case of the same rule. -/
theorem uClkdetTakesTheEdges : Obligations.UClkdetTakesTheEdges :=
  ⟨rfl, rfl, fun _ => exec_uClkdet_of_disabled (second := false), fun _ => exec_uClkdet_of_disabled (second := true),
    fun _ _ hen hch => (exec_uClkdet_of_channel (second := false) hch).trans (congrArg _ (clkdet_of_channel hen hch)),
    fun _ _ hen hch => (exec_uClkdet_of_channel (second := true) hch).trans (congrArg _ (clkdet_of_channel hen hch))⟩

/-- Settles O25: a detector that starts low has risen as often as it has fallen, and once more while it is high. -/
theorem edgesAreTransitions : Obligations.EdgesAreTransitions := by
  intro c hlow
  refine ⟨fun ls => ⟨?transitions, fun n => ?alternate, fun _ => not_rise_and_fall_of_mem_edgeEvents⟩, ?sequence⟩
  case transitions => rw [edgeEvents_eq_zipWith, hlow]
  case alternate =>
    have hbalance := countP_edgeEvents_balance c (ls.take n)
    have hbit := Bool.toNat_le ((ls.take n).foldl detectCycle c).level
    rw [hlow, Bool.toNat_false] at hbalance
    rw [take_edgeEvents]
    omega
  case sequence => rw [edgeEvents_eq_zipWith, hlow]; rfl

end Sys2Proof.Machine
end

section
/-! SUPPORT. The frame of a code as a number, what a transfer puts on the bus, the DAC channel of a rank, and the
statements of 43_dac_frame_encoder.md. -/

namespace Sys2Proof.Machine

/-! ### The frame of a code (43_dac_frame_encoder.md R150, R153) -/

theorem dacClamp_eq_max_min (v : Int) : dacClamp v = max 0 (min 4095 v) := by
  unfold dacClamp clamp
  split_ifs <;> omega

/-- Only the clamped code reaches the frame. -/
theorem enc_dacClamp (v : Int) (sel : Bool) : enc (dacClamp v) sel = enc v sel := by
  obtain ⟨hlo, hhi⟩ := dacClamp_bounds v
  unfold enc dacGainN dacPayload
  rw [dacClamp_of_mem hlo hhi]

theorem enc_gainN (v : Int) (sel : Bool) : (enc v sel).getLsbD 13 = decide (dacClamp v ≤ 2048) := mkFrame_gainN ..

/-- The frame's 12-bit field is the payload mod 4096. -/
theorem enc_code_toNat (v : Int) (sel : Bool) :
    (((enc v sel).extractLsb' 0 12).toNat : Int) = dacPayload v % 4096 := by
  unfold enc
  rw [mkFrame_code, toNat_ofInt_payload]

theorem dacPayload_of_high {v : Int} (h : 2048 < dacClamp v) : dacPayload v = dacClamp v := if_pos h

theorem dacPayload_of_low {v : Int} (h : dacClamp v ≤ 2048) : dacPayload v = 2 * dacClamp v := if_neg (not_lt.2 h)

/-! ### The answer of DACENC (43_dac_frame_encoder.md R151) -/

/-- A frame zero-extended to a word, with its fields from the lowest up (30_encoding.md R71). -/
theorem setWidth_mkFrame (sel gaN : Bool) (c : BitVec 12) : (mkFrame sel gaN c).setWidth 32 =
    fieldAt 32 c 0 ||| bitAt 32 true 12 ||| bitAt 32 gaN 13 ||| bitAt 32 sel 15 := by
  apply BitVec.eq_of_getLsbD_eq
  intro i hi
  simp only [BitVec.getLsbD_setWidth, getLsbD_mkFrame, BitVec.getLsbD_or, getLsbD_fieldAt, getLsbD_bitAt, hi]
  by_cases h16 : i < 16
  · cases sel <;> cases gaN <;> simp [h16, Bool.or_assoc, Bool.or_comm]
  · simp [h16, BitVec.getLsbD_of_ge c i (by omega), show i ≠ 12 by omega, show i ≠ 13 by omega, show i ≠ 15 by omega]

theorem toNat_setWidth_mkFrame (sel gaN : Bool) (c : BitVec 12) : ((mkFrame sel gaN c).setWidth 32).toNat =
    c.toNat + 4096 + 8192 * gaN.toNat + 32768 * sel.toNat := by
  have hactive := (Packs.first c (by decide)).bit true 12 (by decide) (by decide)
  have hgain := hactive.bit gaN 13 (by decide) (by decide)
  rw [setWidth_mkFrame]
  exact (hgain.bit sel 15 (by decide) (by decide)).value

/-- DACENC's answer as the sum of R150. -/
theorem setWidth_enc (v : Int) (sel : Bool) : (enc v sel).setWidth 32 =
    BitVec.ofInt 32 ((if sel then 32768 else 0) + 8192 * (if dacClamp v > 2048 then 0 else 1) + 4096 +
      dacPayload v % 4096) := by
  have hcode := toNat_ofInt_payload (dacPayload v)
  have hsel : (32768 * sel.toNat : Int) = if sel then 32768 else 0 := by cases sel <;> rfl
  have hgain : ((dacGainN v).toNat : Int) = if dacClamp v > 2048 then 0 else 1 := by
    unfold dacGainN
    split_ifs with hhigh
    · simp [hhigh]
    · simp [not_lt.1 hhigh]
  rw [← hsel, ← hgain, ← hcode]
  unfold enc
  generalize BitVec.ofInt 12 (dacPayload v) = code
  apply BitVec.eq_of_toNat_eq
  rw [toNat_setWidth_mkFrame, BitVec.toNat_ofInt]
  omega

theorem exec_dacenc_of_not_halted {s : State} (h : s.mode ≠ .halted) (sel : Bool) :
    exec (.dacenc sel) s = .next (s.setRes ((enc s.opa.toInt sel).setWidth 32)) :=
  State.hostCommand_allowed (rule := fun s => s.setRes ((enc (s32 s.opa) sel).setWidth 32)) h

/-! ### The pins of a transfer (43_dac_frame_encoder.md R158) -/

/-- A frame moves SDI and SCK alone. -/
theorem mem_frameWave {e : PinEvent} {w : Frame} {n : Nat} (h : e ∈ frameWave w n) :
    ∃ b, e = .sdi b ∨ e = .sck b := by
  simp only [frameWave, bitWave, List.mem_flatMap, List.mem_cons, List.not_mem_nil, or_false] at h
  obtain ⟨i, -, rfl | rfl | rfl | rfl⟩ := h
  · exact ⟨_, .inl rfl⟩
  · exact ⟨_, .inr rfl⟩
  · exact ⟨_, .inl rfl⟩
  · exact ⟨_, .inr rfl⟩

/-- The strobe moves the chip's LDAC_n alone. -/
theorem mem_strobeWave {e : PinEvent} {p : Params} {k : Chip} (h : e ∈ strobeWave p k) : ∃ b, e = .ldac k b := by
  unfold strobeWave at h
  split_ifs at h
  · simp only [List.mem_cons, List.not_mem_nil, or_false] at h
    obtain rfl | rfl := h <;> exact ⟨_, rfl⟩
  · cases h

/-- Without an edge of SCK nothing is counted. -/
theorem risingEdges_of_no_sck {l : List PinEvent} (h : ∀ b, .sck b ∉ l) (p : Pins) : risingEdges p l = 0 := by
  induction l generalizing p with
  | nil => rfl
  | cons e l ih =>
    have hhead : e ≠ .sck true := fun he => h true (he ▸ List.mem_cons_self)
    rw [risingEdges, if_neg fun hedge => hhead hedge.2, ih fun b hb => h b (List.mem_cons_of_mem e hb)]

/-- Without an edge of SCK nothing is sampled. -/
theorem sampledBits_of_no_sck {l : List PinEvent} (h : ∀ b, .sck b ∉ l) (k : Chip) (p : Pins) :
    sampledBits k p l = [] := by
  induction l generalizing p with
  | nil => rfl
  | cons e l ih =>
    have hhead : e ≠ .sck true := fun he => h true (he ▸ List.mem_cons_self)
    rw [sampledBits, if_neg fun hedge => hhead hedge.2.1, ih fun b hb => h b (List.mem_cons_of_mem e hb)]
    rfl

/-- Steps 3 and 4 of a transfer leave SCK alone. -/
theorem sck_not_mem_release (p : Params) (k : Chip) (b : Bool) : .sck b ∉ [.cs k true] ++ strobeWave p k := by
  rw [List.mem_append, List.mem_singleton]
  rintro (h | h)
  · cases h
  · obtain ⟨_, h⟩ := mem_strobeWave h
    cases h

theorem transferWave_eq_append (p : Params) (k : Chip) (w : Frame) (n : Nat) :
    transferWave p k w n = .cs k false :: (frameWave w n ++ ([.cs k true] ++ strobeWave p k)) := by
  simp [transferWave]

/-- Lowering CS_n of a chip on an idle bus leaves SCK low. -/
theorem sck_drivePin_cs {pins : Pins} (hb : busIdle pins) (k : Chip) :
    (drivePin pins (.cs k false)).sck = false := by
  obtain ⟨-, -, hsck, -⟩ := hb
  cases k <;> exact hsck

/-- Lowering CS_n of a chip on an idle bus selects it. -/
theorem selectedChip_drivePin_cs {pins : Pins} (hb : busIdle pins) (k : Chip) :
    selectedChip (drivePin pins (.cs k false)) = some k := by
  obtain ⟨h0, h1, -⟩ := hb
  cases k with
  | chip0 => exact selectedChip_chip0_iff.2 ⟨rfl, h1⟩
  | chip1 => exact selectedChip_chip1_iff.2 ⟨h0, rfl⟩

theorem risingEdges_transferWave {pins : Pins} (hb : busIdle pins) (p : Params) (k : Chip) (w : Frame) (n : Nat) :
    risingEdges pins (transferWave p k w n) = 16 := by
  rw [transferWave_eq_append, risingEdges, if_neg (by simp), risingEdges_append,
    risingEdges_of_no_sck (sck_not_mem_release p k), frameWave, risingEdges_positions (sck_drivePin_cs hb k)]
  rfl

/-- On an idle bus a transfer's frame is sampled by its own chip and by no other. -/
theorem sampledBits_transferWave {pins : Pins} (hb : busIdle pins) (p : Params) (k k' : Chip) (w : Frame) (n : Nat) :
    sampledBits k' pins (transferWave p k w n) =
      if k' = k then (List.range 16).map (fun i => w.getLsbD (15 - i)) else [] := by
  rw [transferWave_eq_append, sampledBits, if_neg (by simp), List.nil_append, sampledBits_append,
    sampledBits_of_no_sck (sck_not_mem_release p k), List.append_nil, frameWave,
    sampledBits_positions (sck_drivePin_cs hb k), selectedChip_drivePin_cs hb]
  simp only [Option.some.injEq, eq_comm]

theorem eq_of_cs_mem_transferWave {p : Params} {k k' : Chip} {w : Frame} {n : Nat} {b : Bool}
    (h : .cs k' b ∈ transferWave p k w n) : k' = k := by
  simp only [transferWave, List.mem_append, List.mem_singleton, PinEvent.cs.injEq] at h
  obtain ((⟨hk, -⟩ | hframe) | ⟨hk, -⟩) | hstrobe := h
  · exact hk
  · obtain ⟨_, hb | hb⟩ := mem_frameWave hframe <;> cases hb
  · exact hk
  · obtain ⟨_, hb⟩ := mem_strobeWave hstrobe
    cases hb

/-- No strobe moves before CS_n has risen. -/
theorem ldac_not_mem_select (k k' : Chip) (w : Frame) (n : Nat) (b : Bool) :
    .ldac k' b ∉ [.cs k false] ++ frameWave w n := by
  rw [List.mem_append, List.mem_singleton]
  rintro (h | h)
  · cases h
  · obtain ⟨_, h | h⟩ := mem_frameWave h <;> cases h

/-- U_DACXFER's rule on an idle bus (R157). -/
theorem dacTransfer_of_busIdle {s : State} (hb : busIdle s.pins) (k : Chip) (w : Frame) :
    ∃ sdi, dacTransfer k w s = { s with
      pins := { s.pins with sdi := sdi }, free := s.free + 16, trace := s.trace ++ [.dacFrame k w] } := by
  obtain ⟨sdi, hpins⟩ := drivePins_transferWave s.params k w s.free hb
  refine ⟨sdi, ?_⟩
  unfold dacTransfer
  rw [hpins]
  rfl

/-! ### The DAC channel of a rank (43_dac_frame_encoder.md R154) -/

theorem rank_succ_of_analog {s : State} {o : Nat} {out : Output} (h : s.outputs[o]? = some out)
    (ha : out.analog = true) : rank s (o + 1) = rank s o + 1 := by
  unfold rank
  rw [List.take_add_one, h, List.countP_append]
  simp [ha]

theorem rank_mono (s : State) {o o' : Nat} (h : o ≤ o') : rank s o ≤ rank s o' :=
  (List.take_sublist_take_left h).countP_le

theorem rank_lt_rank {s : State} {o o' : Nat} {out : Output} (h : s.outputs[o]? = some out) (ha : out.analog = true)
    (hlt : o < o') : rank s o < rank s o' := by
  have hsucc := rank_succ_of_analog h ha
  have hmono : rank s (o + 1) ≤ rank s o' := rank_mono s hlt
  omega

theorem dacTarget_eq_of_lt {k : Nat} (h : k < 4) :
    dacTarget k = some (if k / 2 = 0 then .chip0 else .chip1, decide (k % 2 = 1)) := by
  interval_cases k <;> rfl

theorem dacTarget_injective : Function.Injective fun k : Fin 4 => dacTarget k := by decide

/-! ### The statements -/

/-- Settles O26: a code in range is its own clamp, and its payload is cut only at 2048. -/
theorem dacPayloadAndGain : Obligations.DacPayloadAndGain := by
  intro v sel
  refine ⟨fun hlo hhi => ?inRange, by rw [← dacClamp_eq_max_min, enc_dacClamp]⟩
  case inRange =>
    have hclamp := dacClamp_of_mem hlo hhi
    have hcode := enc_code_toNat v sel
    refine ⟨by rw [enc_gainN, hclamp], fun hhigh => ?high, fun hlow => ?low, fun hmid => ?mid⟩
    case high =>
      rw [dacPayload_of_high (by omega), hclamp] at hcode
      omega
    case low =>
      rw [dacPayload_of_low (by omega), hclamp] at hcode
      omega
    case mid =>
      rw [dacPayload_of_low (by omega), hclamp] at hcode
      apply BitVec.eq_of_toNat_eq
      rw [BitVec.ofNat_eq_ofNat, BitVec.toNat_zero]
      omega

/-- Settles O27: the frame's fields do not overlap, so that the word is their sum. -/
theorem dacencAnswersTheFrame : Obligations.DacencAnswersTheFrame := by
  refine ⟨by decide, by decide, fun s sel hmode => ?_⟩
  rw [exec_dacenc_of_not_halted hmode, setWidth_enc]
  unfold dacPayload
  rw [dacClamp_eq_max_min]
  rfl

/-- Settles O29: only the frame moves SCK, and it does so while CS_n of its chip alone is low. -/
theorem transferWaveform : Obligations.TransferWaveform := by
  intro p k w n pins hb
  obtain ⟨sdi, hpins⟩ := drivePins_transferWave p k w n hb
  exact ⟨(sampledBits_transferWave hb p k k w n).trans (if_pos rfl), risingEdges_transferWave hb p k w n,
    hpins ▸ hb, fun k' hk => (sampledBits_transferWave hb p k k' w n).trans (if_neg hk),
    fun _ _ => eq_of_cs_mem_transferWave, [.cs k false] ++ frameWave w n, rfl, fun k' => ldac_not_mem_select k k' w n⟩

/-- Settles O30: the transfer of OPA[15:0] to the chip of the code. -/
theorem uDacxferSendsOneFrame : Obligations.UDacxferSendsOneFrame := by
  intro s chip hb
  obtain ⟨sdi, htransfer⟩ := dacTransfer_of_busIdle hb (chipOfCode chip) (s.opa.extractLsb' 0 16)
  exact ⟨sdi, congrArg Host.Outcome.next htransfer⟩

/-- Settles O32: ranks grow strictly from one analog output to the next, and ranks below 4 have different channels. -/
theorem analogOutputsHaveDistinctChannels : Obligations.AnalogOutputsHaveDistinctChannels := by
  intro s o o' out out' hcount hout hout' ha ha' hlt
  have hless : rank s o < rank s o' := rank_lt_rank hout ha hlt
  have hfour : rank s o' < 4 := (rank_lt_analogCount hout' ha').trans_le hcount
  refine ⟨rfl, hless, Nat.le_of_lt_succ hfour, dacTarget_eq_of_lt (hless.trans hfour), dacTarget_eq_of_lt hfour,
    fun hsame => ?_⟩
  have heq := dacTarget_injective (a₁ := ⟨rank s o, hless.trans hfour⟩) (a₂ := ⟨rank s o', hfour⟩) hsame
  exact hless.ne (congrArg Fin.val heq)

end Sys2Proof.Machine
end

section
/-! SUPPORT. What committing one output writes, what a COMMIT phase has done after its first outputs, and the
statements of 44_output_change_filter.md. -/

namespace Sys2Proof.Machine

/-! ### U_COMMIT of one output (44_output_change_filter.md R172 to R174) -/

theorem s32_ne_zero_iff (w : Word) : s32 w ≠ 0 ↔ w ≠ 0 := not_congr (BitVec.toInt_inj (y := 0))

theorem canCommit_of_digital {s : State} {o : Nat} {out : Output} (h : s.outputs[o]? = some out)
    (ha : out.analog = false) : canCommit o s = true := by
  simp [canCommit, h, ha]

/-- An analog output of rank 0 to 3 has a DAC channel (43_dac_frame_encoder.md R154). -/
theorem canCommit_of_rank_lt {s : State} {o : Nat} {out : Output} (h : s.outputs[o]? = some out)
    (hrank : rank s o < 4) : canCommit o s = true := by
  simp [canCommit, h, dacTarget_eq_of_lt hrank]

theorem exec_uCommit_of_canCommit {s : State} {o : BitVec 16} (h : canCommit o.toNat s = true) :
    exec (.uCommit o) s = .next (commitOutput o.toNat s) := if_pos h

theorem commitOutput_of_differs {s : State} {o : Nat} {out : Output} (h : s.outputs[o]? = some out)
    (hc : out.committed ≠ some out.desired) : commitOutput o s = writeOutput o out s := by
  simp [commitOutput, h, hc]

/-- The write of a digital output: its pin follows DESIRED as a truth value (R172). -/
theorem writeOutput_of_digital {out : Output} (ha : out.analog = false) (s : State) (o : Nat) :
    writeOutput o out s = { s with
      outputs := s.outputs.set o { out with dout := decide (out.desired ≠ 0), committed := some out.desired },
      trace := s.trace ++ [.digitalWrite o (decide (out.desired ≠ 0))] } := by
  simp only [writeOutput, ha, Bool.false_eq_true, if_false, s32_ne_zero_iff]
  rfl

/-- The write of an analog output on an idle bus: one frame to the DAC channel of its rank (R174). -/
theorem writeOutput_of_analog {s : State} {o : Nat} {out : Output} (ha : out.analog = true) (hrank : rank s o < 4)
    (hb : busIdle s.pins) : ∃ sdi, writeOutput o out s = { s with
      outputs := s.outputs.set o { out with committed := some out.desired },
      pins := { s.pins with sdi := sdi },
      free := s.free + 16,
      trace := s.trace ++ [.dacFrame (if rank s o / 2 = 0 then .chip0 else .chip1)
        (enc out.desired.toInt (decide (rank s o % 2 = 1)))] } := by
  obtain ⟨sdi, htransfer⟩ := dacTransfer_of_busIdle hb (if rank s o / 2 = 0 then .chip0 else .chip1)
    (enc out.desired.toInt (decide (rank s o % 2 = 1)))
  refine ⟨sdi, ?_⟩
  simp only [writeOutput, ha, if_true, dacTarget_eq_of_lt hrank, s32, htransfer]
  rfl

/-! ### A COMMIT phase after its first outputs (R176, R177) -/

/-- Only the ANALOG bits below an output make its rank. -/
theorem rank_congr {s t : State} (h : t.outputs.map (·.analog) = s.outputs.map (·.analog)) (o : Nat) :
    rank t o = rank s o := by
  have hcount := congrArg (fun l => (l.take o).countP id) h
  simp only [← List.map_take, List.countP_map] at hcount
  exact hcount

theorem analogCount_congr {s t : State} (h : t.outputs.map (·.analog) = s.outputs.map (·.analog)) :
    analogCount t = analogCount s := by
  have hcount := congrArg (List.countP id) h
  rw [List.countP_map, List.countP_map] at hcount
  exact hcount

theorem owedWrite_congr {s t : State} {o : Nat} (h : rank t o = rank s o) (out : Output) :
    owedWrite t o out = owedWrite s o out := by
  simp only [owedWrite, h]

/-- The writes that a COMMIT phase owes its first `k` outputs. -/
def owedWritesBelow (s : State) (k : Nat) : List BusEvent :=
  (s.outputs.zipIdx.take k).filterMap (fun x => owedWrite s x.2 x.1)

theorem owedWritesBelow_zero (s : State) : owedWritesBelow s 0 = [] := rfl

theorem owedWritesBelow_succ {s : State} {k : Nat} {out : Output} (h : s.outputs[k]? = some out) :
    owedWritesBelow s (k + 1) = owedWritesBelow s k ++ (owedWrite s k out).toList := by
  unfold owedWritesBelow
  rw [List.take_add_one, List.filterMap_append, List.getElem?_zipIdx, h, Nat.zero_add]
  cases hw : owedWrite s k out <;> simp [hw]

theorem owedWritesBelow_length (s : State) : owedWritesBelow s s.outputs.length = owedWrites s := by
  unfold owedWritesBelow owedWrites
  rw [List.take_of_length_le (List.length_zipIdx ..).le]

/-- `s` with the outputs, the bus and the free values of `t`: all that a COMMIT phase may change. -/
def State.withDriven (s t : State) : State :=
  { s with outputs := t.outputs, pins := t.pins, free := t.free, trace := t.trace }

theorem State.withDriven_trans {s t u : State} (ht : t = s.withDriven t) (hu : u = t.withDriven u) :
    u = s.withDriven u := hu.trans (congrArg (·.withDriven u) ht)

/-- What a COMMIT phase that began in `s` has done in `t`, after the outputs 0, …, k − 1. -/
structure CommittedBelow (s : State) (k : Nat) (t : State) : Prop where
  trace : t.trace = s.trace ++ owedWritesBelow s k
  committed : ∀ i < k, ∀ out, t.outputs[i]? = some out → out.committed = some out.desired
  pending : ∀ i ≥ k, t.outputs[i]? = s.outputs[i]?
  view : t.outputs.map (fun x => (x.analog, x.desired)) = s.outputs.map (fun x => (x.analog, x.desired))
  bus : busIdle t.pins
  frame : t = s.withDriven t

theorem CommittedBelow.zero {s : State} (hb : busIdle s.pins) : CommittedBelow s 0 s where
  trace := by rw [owedWritesBelow_zero, List.append_nil]
  committed := by simp
  pending _ _ := rfl
  view := rfl
  bus := hb
  frame := rfl

theorem CommittedBelow.analog {s t : State} {k : Nat} (h : CommittedBelow s k t) :
    t.outputs.map (·.analog) = s.outputs.map (·.analog) := by
  simpa [Function.comp_def] using congrArg (List.map Prod.fst) h.view

/-- Committing the next output: ANALOG stands everywhere, so that the rank is the one the phase began with. -/
theorem CommittedBelow.succ {s t : State} {k : Nat} (h : CommittedBelow s k t) (hcount : analogCount s ≤ 4)
    (hk : k < s.outputs.length) : CommittedBelow s (k + 1) (commitOutput k t) := by
  have hs : s.outputs[k]? = some s.outputs[k] := List.getElem?_eq_getElem hk
  have ht : t.outputs[k]? = some s.outputs[k] := (h.pending k le_rfl).trans hs
  obtain ⟨sdi, free, dout, he⟩ := commitOutput_eq ht ((analogCount_congr h.analog).le.trans hcount) h.bus
  rw [he]
  refine ⟨?trace, ?committed, ?pending, ?view, h.bus, ?frame⟩
  case trace =>
    dsimp only
    rw [h.trace, owedWrite_congr (rank_congr h.analog k), owedWritesBelow_succ hs, List.append_assoc]
  case committed =>
    intro i hi out hout
    obtain rfl | hne := eq_or_ne i k
    · rw [List.getElem?_set_self', ht] at hout
      cases hout
      rfl
    · rw [List.getElem?_set_ne hne.symm] at hout
      exact h.committed i (by omega) out hout
  case pending =>
    intro i hi
    exact (List.getElem?_set_ne (by omega)).trans (h.pending i (by omega))
  case view => exact Eq.trans (map_set_of_eq _ ht (by rfl)) h.view
  case frame => exact State.withDriven_trans h.frame rfl

theorem commitAll_committedBelow {s : State} (hcount : analogCount s ≤ 4) (hb : busIdle s.pins) :
    CommittedBelow s s.outputs.length (commitAll s) :=
  commitAll_induct (CommittedBelow s) (.zero hb) fun _ _ hk h => h.succ hcount hk

/-- After a COMMIT phase every output is committed (R177). -/
theorem committed_of_mem_commitAll {s : State} (hcount : analogCount s ≤ 4) (hb : busIdle s.pins) :
    ∀ out ∈ (commitAll s).outputs, out.committed = some out.desired := by
  intro out hout
  have h := commitAll_committedBelow hcount hb
  have hlen : (commitAll s).outputs.length = s.outputs.length := by simpa using congrArg List.length h.view
  obtain ⟨i, hi, rfl⟩ := List.mem_iff_getElem.1 hout
  exact h.committed i (hlen ▸ hi) _ (List.getElem?_eq_getElem hi)

/-- A COMMIT phase that finds every output committed does nothing. -/
theorem commitAll_of_committed {s : State} (h : ∀ out ∈ s.outputs, out.committed = some out.desired) :
    commitAll s = s := by
  refine commitAll_induct (fun _ t => t = s) rfl fun k t hk ht => ?_
  subst ht
  exact commitOutput_of_committed (List.getElem?_eq_getElem hk) (h _ (List.getElem_mem hk))

/-! ### The statements -/

/-- Settles O33: a digital output can always be committed, and its write is one of its pin. -/
theorem uCommitOfADigitalOutput : Obligations.UCommitOfADigitalOutput := by
  intro s o out hout ha
  rw [exec_uCommit_of_canCommit (canCommit_of_digital hout ha)]
  refine ⟨fun hc => ?committed, fun hc => ?differs⟩
  case committed => rw [commitOutput_of_committed hout hc]
  case differs => rw [commitOutput_of_differs hout hc, writeOutput_of_digital ha]

/-- Settles O34: the `k` of the statement is the output's rank, which has a DAC channel. -/
theorem uCommitOfAnAnalogOutput : Obligations.UCommitOfAnAnalogOutput := by
  rintro s o out _ hout ha rfl hk hb
  have hrank : rank s o.toNat < 4 := Nat.lt_succ_of_le hk
  rw [exec_uCommit_of_canCommit (canCommit_of_rank_lt hout hrank)]
  refine ⟨fun hc => ?committed, fun hc => ?differs⟩
  case committed => rw [commitOutput_of_committed hout hc]
  case differs =>
    obtain ⟨sdi, hwrite⟩ := writeOutput_of_analog ha hrank hb
    rw [commitOutput_of_differs hout hc, hwrite]
    exact ⟨sdi, rfl⟩

/-- Settles O35: what a COMMIT phase has done after its last output; a second phase finds every output committed. -/
theorem commitPhaseWritesExactlyTheChanges : Obligations.CommitPhaseWritesExactlyTheChanges := by
  intro s hcount hb
  have h := commitAll_committedBelow hcount hb
  have hcommitted := committed_of_mem_commitAll hcount hb
  exact ⟨by rw [h.trace, owedWritesBelow_length], hcommitted, h.view, h.bus, h.frame,
    commitAll_of_committed hcommitted⟩

end Sys2Proof.Machine
end

section
/-! SUPPORT. What each check of START finds, that together they are `configOk`, and the statements of
45_step_orchestrator.md R182. -/

namespace Sys2Proof.Machine

/-! ### The first fault along a range -/

theorem findSome?_range_eq_none_iff {α : Type} {f : Nat → Option α} {n : Nat} :
    (List.range n).findSome? f = none ↔ ∀ k < n, f k = none := by
  simp only [List.findSome?_eq_none_iff, List.mem_range]

theorem findSome?_range_of_first {α : Type} {f : Nat → Option α} {k n : Nat} {x : α} (hk : k < n)
    (hfound : f k = some x) (hbefore : ∀ j < k, f j = none) : (List.range n).findSome? f = some x := by
  obtain ⟨m, rfl⟩ := Nat.exists_eq_add_of_lt hk
  have hnone : (List.range k).findSome? f = none := findSome?_range_eq_none_iff.2 hbefore
  rw [Nat.add_assoc, List.range_add, List.findSome?_append, hnone, Option.none_or, List.range_succ_eq_map]
  simp only [List.map_cons, Nat.add_zero, List.findSome?_cons, hfound]

/-- A fault along a range is the fault of one of its numbers. -/
theorem exists_of_findSome?_range {α : Type} {f : Nat → Option α} {n : Nat} {x : α}
    (h : (List.range n).findSome? f = some x) : ∃ k, f k = some x := by
  obtain ⟨k, -, hk⟩ := List.exists_of_findSome?_eq_some h
  exact ⟨k, hk⟩

/-- What holds of the elements of a list holds of them by their places. -/
theorem forall_mem_iff_forall_getElem? {α : Type} {l : List α} {p : α → Prop} :
    (∀ x ∈ l, p x) ↔ ∀ (k : Nat) (x : α), l[k]? = some x → p x := by
  refine ⟨fun h k x hk => h x (List.mem_of_getElem? hk), fun h x hx => ?_⟩
  obtain ⟨k, hk⟩ := List.getElem?_of_mem hx
  exact h k x hk

/-! ### One check -/

theorem clockFault_of_ok {s : State} {second : Bool} (h : clockSrcOk s (s.clock second)) :
    clockFault s second = none :=
  if_neg fun hbad => absurd (h hbad.1) (not_lt.2 hbad.2)

theorem clockFault_of_not_ok {s : State} {second : Bool} (h : ¬ clockSrcOk s (s.clock second)) :
    clockFault s second = some (.badIndex, BitVec.ofNat 32 (regAddr (.clkSrc second))) := by
  unfold clockSrcOk at h
  exact if_pos (by simpa using h)

theorem dividerFault_of_ok {s : State} {b : Bank} {c : Nat} {ch : Channel} (hc : (s.bank b)[c]? = some ch)
    (h : dividerOk ch) : dividerFault s b c = none := by
  simp only [dividerFault, hc]
  exact if_neg fun hbad => h.elim hbad.1 fun hne => hne hbad.2

theorem dividerFault_of_not_ok {s : State} {b : Bank} {c : Nat} {ch : Channel} (hc : (s.bank b)[c]? = some ch)
    (h : ¬ dividerOk ch) : dividerFault s b c = some (.divZero, BitVec.ofNat 32 (chanRegAddr b c .r2)) := by
  simp only [dividerFault, hc]
  exact if_pos (by simpa [dividerOk] using h)

theorem potFault_of_ok {s : State} {c : Nat} {ch : Channel} (hc : s.pots[c]? = some ch)
    (h : u32 ch.vmax ≠ 0 ∧ u32 ch.tol ≠ 0) : potFault s c = none := by
  simp only [potFault, hc, if_neg h.1, if_neg h.2]

/-- VMAX is checked before TOL, and each fault names its register (R182). -/
theorem potFault_of_not_ok {s : State} {c : Nat} {ch : Channel} (hc : s.pots[c]? = some ch)
    (h : ¬ (u32 ch.vmax ≠ 0 ∧ u32 ch.tol ≠ 0)) :
    potFault s c =
      some (.divZero, BitVec.ofNat 32 (chanRegAddr .pots c (if u32 ch.vmax = 0 then .vmax else .tol))) := by
  simp only [potFault, hc]
  by_cases hv : u32 ch.vmax = 0
  · simp only [if_pos hv]
  · have ht : u32 ch.tol = 0 := not_not.1 fun ht => h ⟨hv, ht⟩
    simp only [if_neg hv, if_pos ht]

/-- The addresses of VMAX and TOL (30_encoding.md R79). -/
theorem potInfo_eq (c : Nat) (p : Prop) [Decidable p] :
    chanRegAddr .pots c (if p then .vmax else .tol) = 0x200 + 8 * c + (if p then 4 else 5) := by
  split <;> rfl

/-! ### The channels of a bank in ascending order -/

theorem bankFault_of_ok {s : State} {b : Bank} (h : ∀ ch ∈ s.bank b, dividerOk ch) : bankFault s b = none :=
  findSome?_range_eq_none_iff.2 fun _ hk =>
    dividerFault_of_ok (List.getElem?_eq_getElem hk) (h _ (List.getElem_mem hk))

theorem bankFault_of_first {s : State} {b : Bank} {c : Nat} {ch : Channel} (hc : (s.bank b)[c]? = some ch)
    (h : ¬ dividerOk ch) (hbefore : ∀ c' < c, ∀ ch', (s.bank b)[c']? = some ch' → dividerOk ch') :
    bankFault s b = some (.divZero, BitVec.ofNat 32 (chanRegAddr b c .r2)) := by
  have hlt : c < (s.bank b).length := (List.getElem?_eq_some_iff.1 hc).1
  refine findSome?_range_of_first hlt (dividerFault_of_not_ok hc h) fun j hj => ?_
  have hjc : (s.bank b)[j]? = some (s.bank b)[j] := List.getElem?_eq_getElem (hj.trans hlt)
  exact dividerFault_of_ok hjc (hbefore j hj _ hjc)

/-- The last check of R182: the pots in ascending order. -/
def potsFault (s : State) : Option (FaultCode × Word) := (List.range s.pots.length).findSome? (potFault s)

theorem potsFault_of_ok {s : State} (h : ∀ ch ∈ s.pots, u32 ch.vmax ≠ 0 ∧ u32 ch.tol ≠ 0) : potsFault s = none :=
  findSome?_range_eq_none_iff.2 fun _ hk => potFault_of_ok (List.getElem?_eq_getElem hk) (h _ (List.getElem_mem hk))

theorem potsFault_of_first {s : State} {c : Nat} {ch : Channel} (hc : s.pots[c]? = some ch)
    (h : ¬ (u32 ch.vmax ≠ 0 ∧ u32 ch.tol ≠ 0))
    (hbefore : ∀ c' < c, ∀ ch', s.pots[c']? = some ch' → u32 ch'.vmax ≠ 0 ∧ u32 ch'.tol ≠ 0) :
    potsFault s =
      some (.divZero, BitVec.ofNat 32 (chanRegAddr .pots c (if u32 ch.vmax = 0 then .vmax else .tol))) := by
  have hlt : c < s.pots.length := (List.getElem?_eq_some_iff.1 hc).1
  refine findSome?_range_of_first hlt (potFault_of_not_ok hc h) fun j hj => ?_
  have hjc : s.pots[j]? = some s.pots[j] := List.getElem?_eq_getElem (hj.trans hlt)
  exact potFault_of_ok hjc (hbefore j hj _ hjc)

/-! ### All checks in their order -/

/-- The checks after that on the number of analog outputs. -/
theorem configFault_of_analogCount {s : State} (h : analogCount s ≤ 4) :
    configFault s = ((clockFault s false).or <| (clockFault s true).or <| (bankFault s .inputs).or <|
      (bankFault s .pots).or <| (bankFault s .switches).or <| potsFault s) :=
  if_neg (not_lt.2 h)

theorem configFault_of_tooManyAout {s : State} (h : 4 < analogCount s) :
    configFault s = some (.tooManyAout, BitVec.ofNat 32 (analogCount s)) := if_pos h

/-- The checks after those on the clocks. -/
theorem configFault_of_clocks {s : State} (h : analogCount s ≤ 4) (h1 : clockSrcOk s s.clk1)
    (h2 : clockSrcOk s s.clk2) :
    configFault s = ((bankFault s .inputs).or <| (bankFault s .pots).or <| (bankFault s .switches).or <|
      potsFault s) := by
  rw [configFault_of_analogCount h, clockFault_of_ok (second := false) h1, clockFault_of_ok (second := true) h2,
    Option.none_or, Option.none_or]

/-- The checks after those on the dividers. -/
theorem configFault_of_dividers {s : State} (h : analogCount s ≤ 4) (h1 : clockSrcOk s s.clk1)
    (h2 : clockSrcOk s s.clk2) (hd : ∀ b, ∀ ch ∈ s.bank b, dividerOk ch) : configFault s = potsFault s := by
  simp only [configFault_of_clocks h h1 h2, bankFault_of_ok (hd _), Option.none_or]

/-- The first bad divider in bank and channel order is the fault of the banks. -/
theorem configFault_of_divider {s : State} {b : Bank} {c : Nat} {ch : Channel} (h : analogCount s ≤ 4)
    (h1 : clockSrcOk s s.clk1) (h2 : clockSrcOk s s.clk2) (hc : (s.bank b)[c]? = some ch) (hbad : ¬ dividerOk ch)
    (hbefore : ∀ b' c' ch', (s.bank b')[c']? = some ch' → bankCode b' < bankCode b ∨ b' = b ∧ c' < c →
      dividerOk ch') :
    configFault s = some (.divZero, BitVec.ofNat 32 (chanRegAddr b c .r2)) := by
  have hfault := bankFault_of_first hc hbad fun c' hlt ch' hc' => hbefore b c' ch' hc' (.inr ⟨rfl, hlt⟩)
  have hbank : ∀ b', bankCode b' < bankCode b → bankFault s b' = none := fun b' hlt =>
    bankFault_of_ok (forall_mem_iff_forall_getElem?.2 fun c' ch' hc' => hbefore b' c' ch' hc' (.inl hlt))
  rw [configFault_of_clocks h h1 h2]
  cases b with
  | inputs => rw [hfault, Option.some_or]
  | pots => rw [hbank .inputs (by decide), hfault, Option.none_or, Option.some_or]
  | switches =>
    rw [hbank .inputs (by decide), hbank .pots (by decide), hfault, Option.none_or, Option.none_or, Option.some_or]

theorem configFault_of_configOk {s : State} (h : configOk s) : configFault s = none := by
  obtain ⟨hcount, h1, h2, hd, hp⟩ := h
  rw [configFault_of_dividers hcount h1 h2 hd, potsFault_of_ok hp]

/-- Where no check fails, the configuration passes every rule of R182. -/
theorem configOk_of_configFault {s : State} (h : configFault s = none) : configOk s := by
  have hcount : analogCount s ≤ 4 := by
    by_contra hc
    rw [configFault_of_tooManyAout (not_le.1 hc)] at h
    cases h
  rw [configFault_of_analogCount hcount] at h
  simp only [Option.or_eq_none_iff] at h
  obtain ⟨h1, h2, hi, hp, hs, hpots⟩ := h
  have hclock : ∀ second, clockFault s second = none → clockSrcOk s (s.clock second) := fun second hnone => by
    by_contra hbad
    rw [clockFault_of_not_ok hbad] at hnone
    cases hnone
  have hbank : ∀ b, bankFault s b = none → ∀ ch ∈ s.bank b, dividerOk ch := fun b hnone => by
    refine forall_mem_iff_forall_getElem?.2 fun c ch hc => ?_
    by_contra hbad
    have hnone' := findSome?_range_eq_none_iff.1 hnone c (List.getElem?_eq_some_iff.1 hc).1
    rw [dividerFault_of_not_ok hc hbad] at hnone'
    cases hnone'
  refine ⟨hcount, hclock false h1, hclock true h2, fun b => ?_, ?_⟩
  · cases b with
    | inputs => exact hbank _ hi
    | pots => exact hbank _ hp
    | switches => exact hbank _ hs
  · refine forall_mem_iff_forall_getElem?.2 fun c ch hc => ?_
    by_contra hbad
    have hnone := findSome?_range_eq_none_iff.1 hpots c (List.getElem?_eq_some_iff.1 hc).1
    rw [potFault_of_not_ok hc hbad] at hnone
    cases hnone

/-! ### The codes of the checks (60_exceptions.md R217) -/

/-- The codes that START's checks raise (R182). -/
def isConfigCode (code : FaultCode) : Prop := code = .tooManyAout ∨ code = .badIndex ∨ code = .divZero

theorem isConfigCode_of_clockFault {s : State} {second : Bool} {x : FaultCode × Word}
    (h : clockFault s second = some x) : isConfigCode x.1 := by
  by_cases hok : clockSrcOk s (s.clock second)
  · rw [clockFault_of_ok hok] at h
    cases h
  · rw [clockFault_of_not_ok hok] at h
    cases h
    exact .inr (.inl rfl)

theorem isConfigCode_of_bankFault {s : State} {b : Bank} {x : FaultCode × Word} (h : bankFault s b = some x) :
    isConfigCode x.1 := by
  obtain ⟨c, hc⟩ := exists_of_findSome?_range h
  cases hch : (s.bank b)[c]? with
  | none => simp [dividerFault, hch] at hc
  | some ch =>
    by_cases hok : dividerOk ch
    · rw [dividerFault_of_ok hch hok] at hc
      cases hc
    · rw [dividerFault_of_not_ok hch hok] at hc
      cases hc
      exact .inr (.inr rfl)

theorem isConfigCode_of_potsFault {s : State} {x : FaultCode × Word} (h : potsFault s = some x) :
    isConfigCode x.1 := by
  obtain ⟨c, hc⟩ := exists_of_findSome?_range h
  cases hch : s.pots[c]? with
  | none => simp [potFault, hch] at hc
  | some ch =>
    by_cases hok : u32 ch.vmax ≠ 0 ∧ u32 ch.tol ≠ 0
    · rw [potFault_of_ok hch hok] at hc
      cases hc
    · rw [potFault_of_not_ok hch hok] at hc
      cases hc
      exact .inr (.inr rfl)

theorem isConfigCode_of_configFault {s : State} {x : FaultCode × Word} (h : configFault s = some x) :
    isConfigCode x.1 := by
  by_cases hcount : analogCount s ≤ 4
  · rw [configFault_of_analogCount hcount] at h
    simp only [Option.or_eq_some_iff] at h
    rcases h with h | ⟨-, h | ⟨-, h | ⟨-, h | ⟨-, h | ⟨-, h⟩⟩⟩⟩⟩
    · exact isConfigCode_of_clockFault h
    · exact isConfigCode_of_clockFault h
    · exact isConfigCode_of_bankFault h
    · exact isConfigCode_of_bankFault h
    · exact isConfigCode_of_bankFault h
    · exact isConfigCode_of_potsFault h
  · rw [configFault_of_tooManyAout (not_le.1 hcount)] at h
    cases h
    exact .inl rfl

/-! ### START in CONFIG -/

theorem exec_start_of_config {s : State} (h : s.mode = .config) : exec .start s = .next (startRule s) := by
  show s.hostCommand (decide (s.mode = .config)) startRule = _
  rw [decide_eq_true h]
  exact State.hostCommand_allowed (by simp [h])

theorem startRule_of_fault {s : State} {code : FaultCode} {info : Word} (h : configFault s = some (code, info)) :
    startRule s = s.raise code info := by simp only [startRule, h]

theorem startRule_of_ok {s : State} (h : configFault s = none) : startRule s = enterRun s := by
  simp only [startRule, h]

/-- Part 4 of R182: a START hook that is not enabled leaves HOOK. -/
theorem enterRun_eq (s : State) : enterRun s = { s with
    mode := .run, res := 0,
    phase := if s.ctrl.heStart then .startHook else .idle,
    hook := if s.ctrl.heStart then .start else s.hook } := by
  unfold enterRun
  cases hhook : s.ctrl.heStart <;> simp only [State.setRes_ctrl, State.setMode_ctrl, hhook] <;> rfl

theorem exec_start_of_fault {s : State} {code : FaultCode} {info : Word} (hm : s.mode = .config)
    (h : configFault s = some (code, info)) :
    exec .start s = .next { s with mode := .halted, res := 0, faultCode := code, faultInfo := info } := by
  rw [exec_start_of_config hm, startRule_of_fault h, State.raise_eq]

/-! ### The statements -/

/-- Settles O36: START enters RUN where no check fails, which is `configOk`, and raises the fault of a check
otherwise. -/
theorem startEntersRun : Obligations.StartEntersRun := by
  refine ⟨rfl, fun s hm => ⟨fun hok => ?passes, fun hbad => ?fails⟩⟩
  case passes => rw [exec_start_of_config hm, startRule_of_ok (configFault_of_configOk hok), enterRun_eq]
  case fails =>
    cases hf : configFault s with
    | none => exact absurd (configOk_of_configFault hf) hbad
    | some x => exact ⟨x.1, x.2, exec_start_of_fault hm hf, isConfigCode_of_configFault hf⟩

/-- Settles O37: each check of `configFault`, the ones before it passing. -/
theorem startChecksInOrder : Obligations.StartChecksInOrder := by
  intro s hm
  refine ⟨fun hcount => exec_start_of_fault hm (configFault_of_tooManyAout hcount), fun hcount hbad => ?clock1,
    fun hcount h1 hbad => ?clock2, fun b c ch hcount h1 h2 hc hbad hbefore => ?divider,
    fun c ch hcount h1 h2 hd hc hbad hbefore => ?pot⟩
  case clock1 =>
    refine exec_start_of_fault hm ?_
    rw [configFault_of_analogCount hcount, clockFault_of_not_ok (second := false) hbad]
    rfl
  case clock2 =>
    refine exec_start_of_fault hm ?_
    rw [configFault_of_analogCount hcount, clockFault_of_ok (second := false) h1,
      clockFault_of_not_ok (second := true) hbad]
    rfl
  case divider => exact exec_start_of_fault hm (configFault_of_divider hcount h1 h2 hc hbad hbefore)
  case pot =>
    have hfault := potsFault_of_first hc (fun hok => hbad.elim hok.1 hok.2)
      (fun c' hlt ch' hc' => hbefore c' ch' hc' hlt)
    rw [← configFault_of_dividers hcount h1 h2 hd] at hfault
    rw [potInfo_eq] at hfault
    exact exec_start_of_fault hm hfault

end Sys2Proof.Machine
end

section
/-! SUPPORT. How a cycle goes on from the detectors to its wait point, where ACK takes it up again, and the statements
of 45_step_orchestrator.md R180 to R191 about U_HOOK, STEP and ACK. -/

namespace Sys2Proof.Machine

/-! ### The end of a cycle (45_step_orchestrator.md R186, R194) -/

/-- The phase DEBUG_DELAY is left for IDLE at once (R194, log entry 15). -/
theorem endCycle_eq (s : State) : endCycle s = s.setPhase .idle := by
  unfold endCycle
  split <;> rfl

/-- `t` is `s` after a COMMIT phase that ended the cycle. -/
structure CycleEnded (s t : State) : Prop where
  frame : t = (s.setPhase .idle).withDriven t
  trace : t.trace = s.trace ++ owedWrites s
  bus : busIdle t.pins
  committed : ∀ out ∈ t.outputs, out.committed = some out.desired
  view : t.outputs.map (fun x => (x.analog, x.desired)) = s.outputs.map (fun x => (x.analog, x.desired))

theorem seqCommit_ends {s : State} (hcount : analogCount s ≤ 4) (hb : busIdle s.pins) :
    CycleEnded s (seqCommit s) := by
  have h : CommittedBelow (s.setPhase .commit) _ _ := commitAll_committedBelow hcount hb
  have htrace := h.trace
  rw [owedWritesBelow_length] at htrace
  have hall : ∀ out ∈ (commitAll (s.setPhase .commit)).outputs, _ := committed_of_mem_commitAll hcount hb
  rw [seqCommit, endCycle_eq]
  exact ⟨congrArg (·.setPhase .idle) h.frame, htrace, h.bus, hall, h.view⟩

theorem CycleEnded.desired {s t : State} (h : CycleEnded s t) :
    t.outputs.map (·.desired) = s.outputs.map (·.desired) := by
  simpa [Function.comp_def] using congrArg (List.map Prod.snd) h.view

theorem CycleEnded.phase {s t : State} (h : CycleEnded s t) : t.phase = .idle := congrArg (·.phase) h.frame

theorem CycleEnded.hook {s t : State} (h : CycleEnded s t) : t.hook = s.hook := congrArg (·.hook) h.frame

/-! ### The STEP hook (R186) -/

theorem seqStepHook_of_enabled {s : State} (h : s.ctrl.heStep = true) :
    seqStepHook s = { s with phase := .stepHook, hook := .step } := if_pos h

theorem seqStepHook_of_disabled {s : State} (h : s.ctrl.heStep = false) : seqStepHook s = seqCommit s :=
  if_neg (by simp [h])

/-! ### The wait points of a cycle, from the conditioned channels on (R186, R188)

From here on a cycle changes its detectors, HOOK and PHASE, and where it ends its outputs and the bus. -/

/-- `t` is `s` gone on to a wait point of the cycle: only a cycle that has ended has committed (R188). -/
structure CycleWaits (s t : State) : Prop where
  frame : t = { s.withDriven t with phase := t.phase, hook := t.hook, clk1 := t.clk1, clk2 := t.clk2 }
  ended : t.hook = .none → t.trace = s.trace ++ owedWrites s ∧ busIdle t.pins ∧
    ∀ out ∈ t.outputs, out.committed = some out.desired
  stopped : t.hook ≠ .none → t.trace = s.trace ∧ t.outputs = s.outputs ∧ t.pins = s.pins

/-- What is written before the wait point, in the detectors, HOOK and PHASE, is no output. -/
theorem CycleWaits.of_detected {s u t : State} (h : CycleWaits u t)
    (hu : u = { s with phase := u.phase, hook := u.hook, clk1 := u.clk1, clk2 := u.clk2 }) : CycleWaits s t := by
  obtain ⟨hframe, hended, hstopped⟩ := h
  rw [hu] at hframe hended hstopped
  exact ⟨hframe, hended, hstopped⟩

/-- A cycle that stops at a hook. -/
theorem CycleWaits.of_hooked {s t : State} (hh : t.hook ≠ .none)
    (ht : t = { s with phase := t.phase, hook := t.hook, clk1 := t.clk1, clk2 := t.clk2 }) : CycleWaits s t := by
  rw [ht] at hh ⊢
  exact ⟨rfl, fun h => absurd h hh, fun _ => ⟨rfl, rfl, rfl⟩⟩

theorem CycleWaits.of_ended {s t : State} (hh : s.hook = .none) (h : CycleEnded s t) : CycleWaits s t where
  frame := by rw [h.frame]; rfl
  ended _ := ⟨h.trace, h.bus, h.committed⟩
  stopped hne := absurd (h.hook.trans hh) hne

/-- Where a cycle waits that has gone on to the STEP hook. -/
def waitsAtStepHook (c : Ctrl) (t : State) : Prop :=
  if c.heStep = true then t.phase = .stepHook ∧ t.hook = .step else t.phase = .idle ∧ t.hook = .none

/-- Where a cycle waits that has gone on to CLK2. -/
def waitsAtClk2 (c : Ctrl) (t : State) : Prop :=
  if t.clk2.rise = true ∧ c.heRise2 = true then t.phase = .clk2 ∧ t.hook = .rise2
  else if t.clk2.fall = true ∧ c.heFall2 = true then t.phase = .clk2 ∧ t.hook = .fall2
  else waitsAtStepHook c t

theorem seqStepHook_waits {s : State} (hh : s.hook = .none) (hcount : analogCount s ≤ 4) (hb : busIdle s.pins) :
    (seqStepHook s).clk1 = s.clk1 ∧ (seqStepHook s).clk2 = s.clk2 ∧ waitsAtStepHook s.ctrl (seqStepHook s) ∧
      CycleWaits s (seqStepHook s) := by
  cases he : s.ctrl.heStep with
  | true =>
    rw [seqStepHook_of_enabled he]
    exact ⟨rfl, rfl, (if_pos he).mpr ⟨rfl, rfl⟩, .of_hooked (by simp) rfl⟩
  | false =>
    rw [seqStepHook_of_disabled he]
    have hend := seqCommit_ends hcount hb
    exact ⟨congrArg (·.clk1) hend.frame, congrArg (·.clk2) hend.frame,
      (if_neg (by simp [he])).mpr ⟨hend.phase, hend.hook.trans hh⟩, .of_ended hh hend⟩

/-- A detector in a cycle (R186): it takes the level of its source, and the rest of the sequence follows unless an event
with an enabled hook stops the cycle. -/
theorem clkdet_unlessHooked {second : Bool} {s : State} {c : Clock} (rest : State → State)
    (hc : s.clock second = { c with rise := false, fall := false }) (hsrc : clockSrcOk s c) (hh : s.hook = .none) :
    (clkdet second s).unlessHooked rest =
      if (cycleClock s.inputs c).rise = true ∧ heRise s.ctrl second = true then
        (s.setClock second (cycleClock s.inputs c)).setHook (riseHook second)
      else if (cycleClock s.inputs c).fall = true ∧ heFall s.ctrl second = true then
        (s.setClock second (cycleClock s.inputs c)).setHook (fallHook second)
      else rest (s.setClock second (cycleClock s.inputs c)) := by
  have hkeep : ∀ x, (s.setClock second x).setHook .none = s.setClock second x := fun x => by
    rw [← hh, State.setHook_hook_setClock]
  rw [clkdet_cycle hc hsrc, hh]
  by_cases hr : (cycleClock s.inputs c).rise = true ∧ heRise s.ctrl second = true
  · rw [if_pos hr, if_pos hr, State.unlessHooked_hooked (by cases second <;> simp [riseHook])]
  rw [if_neg hr, if_neg hr]
  by_cases hf : (cycleClock s.inputs c).fall = true ∧ heFall s.ctrl second = true
  · rw [if_pos hf, if_pos hf, State.unlessHooked_hooked (by cases second <;> simp [fallHook])]
  · rw [if_neg hf, if_neg hf, hkeep, State.unlessHooked_none ((State.setClock_hook ..).trans hh)]

theorem seqClk2_eq {s : State} {c : Clock} (hc : s.clk2 = { c with rise := false, fall := false })
    (hsrc : clockSrcOk s c) (hh : s.hook = .none) : seqClk2 s =
      if (cycleClock s.inputs c).rise = true ∧ s.ctrl.heRise2 = true then
        { s with phase := .clk2, hook := .rise2, clk2 := cycleClock s.inputs c }
      else if (cycleClock s.inputs c).fall = true ∧ s.ctrl.heFall2 = true then
        { s with phase := .clk2, hook := .fall2, clk2 := cycleClock s.inputs c }
      else seqStepHook { s with phase := .clk2, clk2 := cycleClock s.inputs c } :=
  clkdet_unlessHooked (second := true) (s := s.setPhase .clk2) seqStepHook hc hsrc hh

theorem seqClk1_eq {s : State} {c : Clock} (hc : s.clk1 = { c with rise := false, fall := false })
    (hsrc : clockSrcOk s c) (hh : s.hook = .none) : seqClk1 s =
      if (cycleClock s.inputs c).rise = true ∧ s.ctrl.heRise1 = true then
        { s with phase := .clk1, hook := .rise1, clk1 := cycleClock s.inputs c }
      else if (cycleClock s.inputs c).fall = true ∧ s.ctrl.heFall1 = true then
        { s with phase := .clk1, hook := .fall1, clk1 := cycleClock s.inputs c }
      else seqClk2 { s with phase := .clk1, clk1 := cycleClock s.inputs c } :=
  clkdet_unlessHooked (second := false) (s := s.setPhase .clk1) seqClk2 hc hsrc hh

theorem seqClk2_waits {s : State} {c : Clock} (hc : s.clk2 = { c with rise := false, fall := false })
    (hsrc : clockSrcOk s c) (hh : s.hook = .none) (hcount : analogCount s ≤ 4) (hb : busIdle s.pins) :
    (seqClk2 s).clk1 = s.clk1 ∧ (seqClk2 s).clk2 = cycleClock s.inputs c ∧ waitsAtClk2 s.ctrl (seqClk2 s) ∧
      CycleWaits s (seqClk2 s) := by
  rw [seqClk2_eq hc hsrc hh]
  by_cases hr : (cycleClock s.inputs c).rise = true ∧ s.ctrl.heRise2 = true
  · rw [if_pos hr]
    exact ⟨rfl, rfl, (if_pos hr).mpr ⟨rfl, rfl⟩, .of_hooked (by simp) rfl⟩
  rw [if_neg hr]
  by_cases hf : (cycleClock s.inputs c).fall = true ∧ s.ctrl.heFall2 = true
  · rw [if_pos hf]
    exact ⟨rfl, rfl, (if_neg hr).mpr ((if_pos hf).mpr ⟨rfl, rfl⟩), .of_hooked (by simp) rfl⟩
  rw [if_neg hf]
  obtain ⟨h1, h2, hat, hwaits⟩ :=
    seqStepHook_waits (s := { s with phase := .clk2, clk2 := cycleClock s.inputs c }) hh hcount hb
  refine ⟨h1, h2, ?_, hwaits.of_detected rfl⟩
  rw [waitsAtClk2, h2, if_neg hr, if_neg hf]
  exact hat

/-- Where a cycle waits that has conditioned its channels: at a hook of CLK1, with CLK2 only cleared, or as CLK2 leaves
it. CLK2 was `c2` when the cycle began. -/
def waitsAtClk1 (c : Ctrl) (inputs : List Channel) (c2 : Clock) (t : State) : Prop :=
  if t.clk1.rise = true ∧ c.heRise1 = true then
    t.phase = .clk1 ∧ t.hook = .rise1 ∧ t.clk2 = { c2 with rise := false, fall := false }
  else if t.clk1.fall = true ∧ c.heFall1 = true then
    t.phase = .clk1 ∧ t.hook = .fall1 ∧ t.clk2 = { c2 with rise := false, fall := false }
  else t.clk2 = cycleClock inputs c2 ∧ waitsAtClk2 c t

theorem seqClk1_waits {s : State} {c1 c2 : Clock} (h1 : s.clk1 = { c1 with rise := false, fall := false })
    (h2 : s.clk2 = { c2 with rise := false, fall := false }) (hsrc1 : clockSrcOk s c1) (hsrc2 : clockSrcOk s c2)
    (hh : s.hook = .none) (hcount : analogCount s ≤ 4) (hb : busIdle s.pins) :
    (seqClk1 s).clk1 = cycleClock s.inputs c1 ∧ waitsAtClk1 s.ctrl s.inputs c2 (seqClk1 s) ∧
      CycleWaits s (seqClk1 s) := by
  rw [seqClk1_eq h1 hsrc1 hh]
  by_cases hr : (cycleClock s.inputs c1).rise = true ∧ s.ctrl.heRise1 = true
  · rw [if_pos hr]
    exact ⟨rfl, (if_pos hr).mpr ⟨rfl, rfl, h2⟩, .of_hooked (by simp) rfl⟩
  rw [if_neg hr]
  by_cases hf : (cycleClock s.inputs c1).fall = true ∧ s.ctrl.heFall1 = true
  · rw [if_pos hf]
    exact ⟨rfl, (if_neg hr).mpr ((if_pos hf).mpr ⟨rfl, rfl, h2⟩), .of_hooked (by simp) rfl⟩
  rw [if_neg hf]
  obtain ⟨hclk1, hclk2, hat, hwaits⟩ :=
    seqClk2_waits (s := { s with phase := .clk1, clk1 := cycleClock s.inputs c1 }) h2 hsrc2 hh hcount hb
  refine ⟨hclk1, ?_, hwaits.of_detected rfl⟩
  rw [waitsAtClk1, hclk1, if_neg hr, if_neg hf]
  exact ⟨hclk2, hat⟩

/-! ### A whole cycle (R183, R186) -/

theorem exec_step_of_idle {s : State} (hm : s.mode = .run) (hp : s.phase = .idle) (hh : s.hook = .none) :
    exec .step s = .next (seqCondIn { s with res := 0 }) := by
  show s.hostCommand (decide (s.mode = .run ∧ s.phase = .idle ∧ s.hook = .none)) stepRule = _
  rw [decide_eq_true ⟨hm, hp, hh⟩]
  exact State.hostCommand_allowed (by simp [hm])

/-- The number of draws of a cycle. -/
def drawCount (s : State) : Nat := s.inputs.length + s.pots.length + s.switches.length

theorem drawIndex_lt_drawCount {s : State} {b : Bank} {c : Nat} (hc : c < (s.bank b).length) :
    drawIndex s b c < drawCount s := by
  unfold drawCount
  cases b with
  | inputs => simp only [drawIndex, State.bank_inputs] at hc ⊢; omega
  | pots => simp only [drawIndex, State.bank_pots] at hc ⊢; omega
  | switches => simp only [drawIndex, State.bank_switches] at hc ⊢; omega

/-- Only the outputs say what a COMMIT phase owes. -/
theorem owedWrites_congr {s t : State} (h : t.outputs = s.outputs) : owedWrites t = owedWrites s := by
  simp only [owedWrites, owedWrite, rank, h]

theorem clockSrcOk_congr {s t : State} (h : t.inputs.length = s.inputs.length) (c : Clock) :
    clockSrcOk t c ↔ clockSrcOk s c := by
  simp only [clockSrcOk, h]

/-- All that a cycle of `s` that has conditioned its channels in `u` and gone on to its wait point `t` leaves alone. -/
theorem CycleWaits.cycle_frame {s u t : State} {n : Nat} {p : Phase} (hu : CycleUpTo s n u p) (h : CycleWaits u t) :
    t = { (s.drawn n).withDriven t with
      phase := t.phase, hook := t.hook, clk1 := t.clk1, clk2 := t.clk2,
      inputs := u.inputs, pots := u.pots, switches := u.switches } := by
  have hframe := h.frame
  rw [hu.rest] at hframe
  exact hframe

/-! ### ACK (R184) -/

theorem exec_ack_of_hook {s : State} (hm : s.mode = .run) (hh : s.hook ≠ .none) :
    exec .ack s = .next (resumeAfter s.hook { s with res := 0, hook := .none }) := by
  show s.hostCommand (decide (s.mode = .run ∧ s.hook ≠ .none)) ackRule = _
  rw [decide_eq_true ⟨hm, hh⟩]
  exact State.hostCommand_allowed (by simp [hm])

/-- The state in which ACK lets a cycle go on at the STEP hook, CLK2 being `c` by then. -/
def State.resumed (s : State) (p : Phase) (c : Clock) : State :=
  { s with res := 0, hook := .none, phase := p, clk2 := c }

/-- From there the cycle stops at the STEP hook if it is enabled, and else ends with every output committed. -/
theorem next_seqStepHook_resumed (s : State) (p : Phase) (c : Clock) :
    (s.ctrl.heStep = true → (.next (seqStepHook (s.resumed p c)) : Result) =
      .next { s with res := 0, hook := .step, phase := .stepHook, clk2 := c }) ∧
    (s.ctrl.heStep = false → analogCount s ≤ 4 → busIdle s.pins →
      ∃ t, (.next (seqStepHook (s.resumed p c)) : Result) = .next t ∧
        t = { s with res := 0, hook := .none, phase := .idle, clk2 := c,
                     outputs := t.outputs, pins := t.pins, free := t.free, trace := t.trace } ∧
        t.trace = s.trace ++ owedWrites s ∧ (∀ out ∈ t.outputs, out.committed = some out.desired)) := by
  refine ⟨fun he => congrArg _ (seqStepHook_of_enabled he), fun he hcount hb => ?_⟩
  have hend : CycleEnded (s.resumed p c) _ := seqCommit_ends hcount hb
  exact ⟨_, congrArg _ (seqStepHook_of_disabled he), hend.frame, hend.trace, hend.committed⟩

/-- With CLK2 disabled, and for a CLK2 hook, ACK goes on at the STEP hook. -/
theorem exec_ack_of_clk2_done {s : State} (hm : s.mode = .run)
    (hh : (s.hook = .rise1 ∨ s.hook = .fall1) ∧ s.clk2.src.en = false ∨ s.hook = .rise2 ∨ s.hook = .fall2) :
    ∃ p, exec .ack s = .next (seqStepHook (s.resumed p s.clk2)) := by
  rcases hh with ⟨hclk1, hen⟩ | hclk2
  · refine ⟨.clk2, ?_⟩
    have hskip : seqClk2 { s with res := 0, hook := .none } = seqStepHook (s.resumed .clk2 s.clk2) :=
      congrArg (·.unlessHooked seqStepHook) (clkdet_of_disabled (second := true) (s := s.resumed .clk2 s.clk2) hen)
    rw [exec_ack_of_hook hm (by rcases hclk1 with h | h <;> simp [h])]
    rcases hclk1 with h | h <;> rw [h] <;> exact congrArg _ hskip
  · refine ⟨s.phase, ?_⟩
    rw [exec_ack_of_hook hm (by rcases hclk2 with h | h <;> simp [h])]
    rcases hclk2 with h | h <;> rw [h] <;> rfl

/-- An enabled CLK2 sees the level of its source when ACK goes on after a CLK1 hook (42_clock_edge_detector.md R138). -/
theorem exec_ack_of_clk1_hook {s : State} {ch : Channel} (hm : s.mode = .run)
    (hh : s.hook = .rise1 ∨ s.hook = .fall1) (hen : s.clk2.src.en = true)
    (hch : s.inputs[s.clk2.src.idx.toNat]? = some ch) :
    exec .ack s = .next (State.unlessHooked
      (if s.clk2.level = false ∧ ch.reading ≠ 0 then
        (s.resumed .clk2 { s.clk2 with level := true, rise := true }).setHook
          (if s.ctrl.heRise2 then .rise2 else .none)
      else if s.clk2.level = true ∧ ch.reading = 0 then
        (s.resumed .clk2 { s.clk2 with level := false, fall := true }).setHook
          (if s.ctrl.heFall2 then .fall2 else .none)
      else s.resumed .clk2 s.clk2) seqStepHook) := by
  have hdet := clkdet_of_channel (second := true) (s := s.resumed .clk2 s.clk2) hen hch
  rw [exec_ack_of_hook hm (by rcases hh with h | h <;> simp [h])]
  have hseq : seqClk2 { s with res := 0, hook := .none } = _ := congrArg (·.unlessHooked seqStepHook) hdet
  rcases hh with h | h <;> rw [h] <;> exact congrArg _ hseq

/-- CLK2 once it has seen the reading of its source (42_clock_edge_detector.md R138, R140). -/
def clockSeeing (c : Clock) (ch : Channel) : Clock :=
  if c.level = false ∧ ch.reading ≠ 0 then { c with level := true, rise := true }
  else if c.level = true ∧ ch.reading = 0 then { c with level := false, fall := true }
  else c

/-- On a steady level, or an edge whose hook is not enabled, ACK goes on at the STEP hook. -/
theorem exec_ack_of_clk2_not_hooked {s : State} {ch : Channel} (hm : s.mode = .run)
    (hh : s.hook = .rise1 ∨ s.hook = .fall1) (hen : s.clk2.src.en = true)
    (hch : s.inputs[s.clk2.src.idx.toNat]? = some ch)
    (hnr : ¬(s.clk2.level = false ∧ ch.reading ≠ 0 ∧ s.ctrl.heRise2 = true))
    (hnf : ¬(s.clk2.level = true ∧ ch.reading = 0 ∧ s.ctrl.heFall2 = true)) :
    exec .ack s = .next (seqStepHook (s.resumed .clk2 (clockSeeing s.clk2 ch))) := by
  rw [exec_ack_of_clk1_hook hm hh hen hch, clockSeeing]
  by_cases hr : s.clk2.level = false ∧ ch.reading ≠ 0
  · have he : s.ctrl.heRise2 = false := Bool.eq_false_iff.2 fun he => hnr ⟨hr.1, hr.2, he⟩
    rw [if_pos hr, if_pos hr, he]
    rfl
  rw [if_neg hr, if_neg hr]
  by_cases hf : s.clk2.level = true ∧ ch.reading = 0
  · have he : s.ctrl.heFall2 = false := Bool.eq_false_iff.2 fun he => hnf ⟨hf.1, hf.2, he⟩
    rw [if_pos hf, if_pos hf, he]
    rfl
  · rw [if_neg hf, if_neg hf]
    rfl

/-! ### The statements -/

/-- Settles O42: the six kinds. -/
theorem uHookRequestsItsKind : Obligations.UHookRequestsItsKind :=
  fun _ => ⟨rfl, rfl, rfl, rfl, rfl, rfl⟩

/-- Settles O40: after the START hook only PHASE is left to set, after the STEP hook only the COMMIT phase is left. -/
theorem ackOfTheStartAndStepHooks : Obligations.AckOfTheStartAndStepHooks := by
  refine ⟨rfl, fun s hm hh => ?start, fun s hm hh hcount hb => ?step⟩
  case start =>
    rw [exec_ack_of_hook hm (by simp [hh]), hh]
    rfl
  case step =>
    have hend : CycleEnded { s with res := 0, hook := .none } _ := seqCommit_ends hcount hb
    rw [exec_ack_of_hook hm (by simp [hh]), hh]
    exact ⟨_, rfl, hend.frame, hend.trace, hend.committed, hend.desired⟩

/-- Settles O41: after ACK of a clock hook the cycle goes on at the STEP hook in a state `State.resumed`, unless CLK2
stops it. -/
theorem ackOfAClockHookGoesOn : Obligations.AckOfAClockHookGoesOn := by
  refine ⟨fun s hm hh => ?done, fun s ch hm hh hen hch => ⟨fun hl hr he => ?rise, fun hl hr he => ?fall,
    fun hnr hnf => ?steady⟩⟩
  case done =>
    obtain ⟨p, hack⟩ := exec_ack_of_clk2_done hm hh
    rw [hack]
    exact next_seqStepHook_resumed s p s.clk2
  case rise =>
    rw [exec_ack_of_clk1_hook hm hh hen hch, if_pos ⟨hl, hr⟩, he]
    rfl
  case fall =>
    rw [exec_ack_of_clk1_hook hm hh hen hch, if_neg (by simp [hl]), if_pos ⟨hl, hr⟩, he]
    rfl
  case steady =>
    rw [exec_ack_of_clk2_not_hooked hm hh hen hch hnr hnf]
    exact next_seqStepHook_resumed s .clk2 (clockSeeing s.clk2 ch)

/-- Settles O38: no conversion raises, so that the cycle conditions every channel and goes on to the detectors. -/
theorem stepRunsACycle : Obligations.StepRunsACycle := by
  refine ⟨rfl, fun s hm hp hh hok hb hfits => ?_⟩
  have hview := stepRule_cycleFrame s
  obtain ⟨hcount, hsrc1, hsrc2, hd, hpots⟩ := hok
  rcases seqCondIn_cases (s := { s with res := 0 }) (by simp [hm]) hd hpots with
    ⟨u, hu, hseq⟩ | ⟨b, c, ch, w, hc, hov, -⟩
  swap
  · exact absurd (hfits b c ch hc) (not_le.2 hov)
  have hlen : u.inputs.length = s.inputs.length := hu.length .inputs
  have houtputs : u.outputs = s.outputs := congrArg (·.outputs) hu.rest
  have htrace : u.trace = s.trace := congrArg (·.trace) hu.rest
  have hpins : u.pins = s.pins := congrArg (·.pins) hu.rest
  have hctrl : u.ctrl = s.ctrl := congrArg (·.ctrl) hu.rest
  obtain ⟨hclk1, hat, hwaits⟩ := seqClk1_waits (congrArg (·.clk1) hu.rest) (congrArg (·.clk2) hu.rest)
    ((clockSrcOk_congr hlen _).2 hsrc1) ((clockSrcOk_congr hlen _).2 hsrc2) ((congrArg (·.hook) hu.rest).trans hh)
    (by rw [analogCount, houtputs]; exact hcount) (by rw [hpins]; exact hb)
  rw [hctrl] at hat
  have hframe := hwaits.cycle_frame hu
  have hbank : ∀ b, (seqClk1 u).bank b = u.bank b := fun b => by rw [hframe]; cases b <;> rfl
  have hinputs : (seqClk1 u).inputs = u.inputs := hbank .inputs
  have hended := hwaits.ended
  rw [htrace, owedWrites_congr houtputs] at hended
  have hstopped := hwaits.stopped
  rw [htrace, houtputs, hpins] at hstopped
  rw [← hinputs] at hclk1 hat
  have hview := stepRule_cycleFrame s
  rw [show stepRule s = seqClk1 u from hseq] at hview
  refine ⟨seqClk1 u, (exec_step_of_idle hm hp hh).trans (congrArg _ hseq), (congrArg (·.mode) hframe).trans hm,
    congrArg (·.res) hframe, fun b c ch hc => ?channel, congrArg (·.samples) hframe, hclk1, hat, hended, hstopped,
    hview.config, hview.desired, congrArg (·.faultCode) hframe, congrArg (·.faultInfo) hframe,
    congrArg (·.inbox) hframe, congrArg (·.cw) hframe, congrArg (·.opa) hframe, congrArg (·.opb) hframe,
    congrArg (·.opc) hframe⟩
  rw [hbank b]
  exact hu.before b c ch (drawIndex_lt_drawCount (List.getElem?_eq_some_iff.1 hc).1) hc

end Sys2Proof.Machine
end

section
/-! SUPPORT. What each host command can do, and the statement of 45_step_orchestrator.md R192 about what only STEP and
ACK touch. -/

namespace Sys2Proof.Machine

/-! ### The effect of a host command (40_host_interface.md R84, 60_exceptions.md R218) -/

/-- All that the host command `i` can make of `s`: it answers or raises, or it is a WR that stores, a START of a
configuration that passes, a STEP from IDLE or an ACK of a hook. -/
inductive HostEffect (s : State) : Instr → State → Prop
  | answers {i : Instr} (w : Word) : HostEffect s i (s.setRes w)
  | raises {i : Instr} {code : FaultCode} (info : Word) (hcode : code ≠ .none) : HostEffect s i (s.raise code info)
  | stores {a : Addr} {r : Reg} (hr : regAccess r ≠ .readOnly) (hm : regAccess r = .config → s.mode = .config) :
      HostEffect s (.wr a) ((s.writeReg r s.opa).setRes 0)
  | starts (hm : s.mode = .config) (hok : configOk s) : HostEffect s .start (enterRun s)
  | steps (hm : s.mode = .run) (hp : s.phase = .idle) (hh : s.hook = .none) : HostEffect s .step (stepRule s)
  | acks (hm : s.mode = .run) (hh : s.hook ≠ .none) : HostEffect s .ack (ackRule s)

/-- Turned away, a host command answers 0 or raises BAD_PHASE. -/
theorem HostEffect.hostCommand {i : Instr} {s t : State} {allowed : Bool} {rule : State → State}
    (h : s.hostCommand allowed rule = .next t)
    (hrule : s.mode ≠ .halted → allowed = true → HostEffect s i (rule s)) : HostEffect s i t := by
  rcases State.hostCommand_cases h with ⟨-, rfl⟩ | ⟨hm, ha, rfl⟩ | ⟨-, -, rfl⟩
  · exact .answers 0
  · exact hrule hm ha
  · exact .raises _ (by decide)

/-- A host command that only answers. -/
theorem HostEffect.hostCommand_setRes {i : Instr} {s t : State} {allowed : Bool} {answer : State → Word}
    (h : s.hostCommand allowed (fun u => u.setRes (answer u)) = .next t) : HostEffect s i t :=
  .hostCommand h fun _ _ => .answers (answer s)

theorem HostEffect.convRule (i : Instr) (s : State) : HostEffect s i (convRule s) := by
  unfold Machine.convRule
  split
  · exact .raises _ (by decide)
  split
  · exact .raises _ (by decide)
  split
  · exact .answers _
  · rename_i code hconv
    refine .raises _ ?_
    rcases conv_eq_error.1 hconv with ⟨-, -, rfl⟩ | ⟨-, -, rfl⟩ <;> decide

theorem HostEffect.pctRule (i : Instr) (rev : Bool) (s : State) : HostEffect s i (pctRule rev s) := by
  unfold Machine.pctRule
  split
  · exact .answers _
  · rename_i code hpct
    obtain ⟨-, rfl⟩ := pct_eq_error hpct
    exact .raises _ (by decide)

theorem HostEffect.quantRule (i : Instr) (s : State) : HostEffect s i (quantRule s) := by
  unfold Machine.quantRule
  dsimp only
  split
  · exact .answers _
  · exact .raises _ (by decide)

theorem HostEffect.execRd {i : Instr} {a : Addr} {s t : State} (h : execRd a s = .next t) : HostEffect s i t := by
  cases hr : s.readAt a with
  | some w =>
    rw [execRd_of_mapped hr] at h
    cases h
    exact .answers w
  | none =>
    rw [execRd_of_unmapped hr] at h
    cases h
    split
    · exact .answers 0
    · exact .raises _ (by decide)

theorem HostEffect.writeRule {s : State} (hm : s.mode ≠ .halted) (a : Addr) :
    HostEffect s (.wr a) (writeRule a s) := by
  cases hr : s.regAt a with
  | none =>
    rw [writeRule_of_unmapped hr]
    exact .raises _ (by decide)
  | some r =>
    by_cases hro : regAccess r = .readOnly
    · rw [writeRule_of_readOnly hr hro]
      exact .raises _ (by decide)
    by_cases hlock : s.mode = .run ∧ regAccess r = .config
    · rw [writeRule_of_locked hr hlock.2 hlock.1]
      exact .raises _ (by decide)
    rw [writeRule_of_stored hr hro fun hrun hconf => hlock ⟨hrun, hconf⟩]
    refine .stores hro fun hconf => ?_
    cases hmode : s.mode with
    | config => rfl
    | run => exact absurd ⟨hmode, hconf⟩ hlock
    | halted => exact absurd hmode hm

theorem HostEffect.startRule {s : State} (hm : s.mode = .config) : HostEffect s .start (startRule s) := by
  cases hf : configFault s with
  | none =>
    rw [startRule_of_ok hf]
    exact .starts hm (configOk_of_configFault hf)
  | some x =>
    rw [startRule_of_fault hf]
    refine .raises _ ?_
    rcases isConfigCode_of_configFault hf with h | h | h <;> simp [h]

theorem hostEffect_of_exec {i : Instr} {s t : State} (hi : i.isHost = true) (h : exec i s = .next t) :
    HostEffect s i t := by
  cases i with
  | nop => exact .hostCommand_setRes (answer := fun _ => 0) h
  | rd a => exact .execRd h
  | wr a => exact .hostCommand h fun hm _ => .writeRule hm a
  | start => exact .hostCommand h fun _ ha => .startRule (of_decide_eq_true ha)
  | step =>
    refine .hostCommand h fun _ ha => ?_
    obtain ⟨hm, hp, hh⟩ := of_decide_eq_true ha
    exact .steps hm hp hh
  | ack =>
    refine .hostCommand h fun _ ha => ?_
    obtain ⟨hm, hh⟩ := of_decide_eq_true ha
    exact .acks hm hh
  | conv => exact .hostCommand h fun _ _ => .convRule _ s
  | thresh => exact .hostCommand_setRes (answer := fun u => threshVal u.opa u.opb) h
  | pct rev => exact .hostCommand h fun _ _ => .pctRule _ rev s
  | quant => exact .hostCommand h fun _ _ => .quantRule _ s
  | dacenc sel => exact .hostCommand_setRes (answer := fun u => (enc (s32 u.opa) sel).setWidth 32) h
  | uCond | uSmooth | uClkdet | uCommit | uDacxfer | uHook | dacFrame => cases hi

/-! ### What belongs to the cycle (45_step_orchestrator.md R192) -/

/-- From `s` to `t` nothing that the cycle writes has changed: READING, HIST, LEVEL, EVENTS, COMMITTED, the pins, the
trace and the draws. -/
structure CycleUntouched (s t : State) : Prop where
  bank : ∀ b, (t.bank b).map (fun ch => (ch.reading, ch.hist)) = (s.bank b).map (fun ch => (ch.reading, ch.hist))
  clock : ∀ n, ((t.clock n).level, (t.clock n).rise, (t.clock n).fall) =
    ((s.clock n).level, (s.clock n).rise, (s.clock n).fall)
  outputs : t.outputs.map (fun x => (x.committed, x.dout)) = s.outputs.map (fun x => (x.committed, x.dout))
  pins : t.pins = s.pins
  trace : t.trace = s.trace
  samples : t.samples = s.samples

theorem CycleUntouched.setRes (s : State) (w : Word) : CycleUntouched s (s.setRes w) :=
  ⟨fun _ => rfl, fun _ => rfl, rfl, rfl, rfl, rfl⟩

theorem CycleUntouched.raise (s : State) (code : FaultCode) (info : Word) : CycleUntouched s (s.raise code info) :=
  ⟨fun _ => rfl, fun _ => rfl, rfl, rfl, rfl, rfl⟩

theorem CycleUntouched.enterRun (s : State) : CycleUntouched s (enterRun s) := by
  rw [enterRun_eq]
  exact ⟨fun _ => rfl, fun _ => rfl, rfl, rfl, rfl, rfl⟩

theorem writeChanReg_published (ch : Channel) (f : ChanReg) (x : Word) :
    ((writeChanReg ch f x).reading, (writeChanReg ch f x).hist) = (ch.reading, ch.hist) := by
  cases f <;> rfl

/-- Whatever a write to a channel register leaves of a channel, a write leaves of all channels. -/
theorem State.writeReg_bank_map {α : Type} (g : Channel → α) (hg : ∀ ch f x, g (writeChanReg ch f x) = g ch)
    (s : State) (r : Reg) (x : Word) (b : Bank) : ((s.writeReg r x).bank b).map g = (s.bank b).map g := by
  cases r with
  | status | fault | faultInfo | events | params | ctrl => rfl
  | clkSrc second => rw [State.writeReg, State.setClock_bank]
  | chan b' c f =>
    cases hc : (s.bank b')[c]? with
    | none => simp only [State.writeReg, hc]
    | some ch =>
      rw [State.writeReg_chan hc]
      by_cases hb : b = b'
      · subst hb
        rw [State.bank_setChan_same, map_set_of_eq g hc (hg ch f x)]
      · rw [State.bank_setChan_ne s c _ hb]
  | out o f =>
    cases ho : s.outputs[o]? with
    | none => simp only [State.writeReg, ho]
    | some out => rw [State.writeReg_out ho, State.setOutput_bank]

/-- A write changes the sources of the detectors at most. -/
theorem State.writeReg_clock (s : State) (r : Reg) (x : Word) (n : Bool) :
    (s.writeReg r x).clock n = { s.clock n with src := ((s.writeReg r x).clock n).src } := by
  cases r with
  | status | fault | faultInfo | events | params | ctrl => rfl
  | clkSrc second => cases n <;> cases second <;> rfl
  | chan b c f =>
    cases hc : (s.bank b)[c]? with
    | none => simp only [State.writeReg, hc]
    | some ch => rw [State.writeReg_chan hc, State.setChan_clock]
  | out o f =>
    cases ho : s.outputs[o]? with
    | none => simp only [State.writeReg, ho]
    | some out => rw [State.writeReg_out ho, State.setOutput_clock]

/-- WR stores in registers of the configuration and in DESIRED. -/
theorem CycleUntouched.writeReg (s : State) (r : Reg) (x : Word) : CycleUntouched s (s.writeReg r x) where
  bank := s.writeReg_bank_map _ writeChanReg_published r x
  clock n := by rw [State.writeReg_clock]
  outputs := s.writeReg_outputs_map _ (fun out f x => by rw [writeOutReg_committed, writeOutReg_dout]) r x
  pins := congrArg (·.pins) (State.writeReg_frame s r x)
  trace := congrArg (·.trace) (State.writeReg_frame s r x)
  samples := congrArg (·.samples) (State.writeReg_frame s r x)

theorem CycleUntouched.stored (s : State) (r : Reg) (x : Word) : CycleUntouched s ((s.writeReg r x).setRes 0) := by
  obtain ⟨hbank, hclock, houtputs, hpins, htrace, hsamples⟩ := CycleUntouched.writeReg s r x
  exact ⟨hbank, hclock, houtputs, hpins, htrace, hsamples⟩

/-! ### The statement -/

/-- Settles O58: of the effects of a host command only those of STEP and ACK touch the cycle's state. -/
theorem onlyStepAndAckTouchTheCycle : Obligations.OnlyStepAndAckTouchTheCycle := by
  intro i s t hi hstep hack h
  have huntouched : CycleUntouched s t := by
    cases hostEffect_of_exec hi h with
    | answers w => exact .setRes s w
    | raises info _ => exact .raise s _ info
    | stores _ _ => exact .stored s _ _
    | starts _ _ => exact .enterRun s
    | steps => exact absurd rfl hstep
    | acks => exact absurd rfl hack
  obtain ⟨hbank, hclock, houtputs, hpins, htrace, hsamples⟩ := huntouched
  exact ⟨hbank, hclock, houtputs, hpins, htrace, hsamples⟩

end Sys2Proof.Machine
end

section
/-! SUPPORT. The invariant of the block along a host command: the part of it that holds inside a cycle too, what keeps
that part, and the statement that every step keeps the invariant. -/

namespace Sys2Proof.Machine

/-! ### The invariant between wait points -/

/-- The parts of `RunInv` that hold inside a command too: all but the wait point and what is said of CLK2 at one. -/
structure InnerInv (s : State) : Prop where
  hostOnly : ∀ x ∈ s.inbox, x.fromHost = true
  counts : sized s
  record : faultRecordOk s
  bus : busIdle s.pins
  clock1 : clockOk s.mode s.clk1
  clock2 : clockOk s.mode s.clk2
  channels : ∀ b, ∀ ch ∈ s.bank b, channelOk s.mode b ch
  validated : s.mode = .run → configOk s

theorem RunInv.inner {s : State} (h : RunInv s) : InnerInv s :=
  ⟨h.hostOnly, h.counts, h.record, h.bus, h.clock1, h.clock2, h.channels, h.validated⟩

theorem RunInv.runWaitPoint_of_run {s : State} (h : RunInv s) (hm : s.mode = .run) : runWaitPoint s := by
  simpa [atWaitPoint, hm] using h.waits

theorem RunInv.hook_of_config {s : State} (h : RunInv s) (hm : s.mode = .config) : s.hook = .none := by
  have hw : s.phase = .idle ∧ s.hook = .none := by simpa [atWaitPoint, hm] using h.waits
  exact hw.2

theorem InnerInv.runInv {s : State} (h : InnerInv s) (hwaits : atWaitPoint s)
    (hclear : s.mode = .run → s.phase = .clk1 → s.clk2.rise = false ∧ s.clk2.fall = false) : RunInv s :=
  ⟨h.hostOnly, h.counts, hwaits, h.record, h.bus, h.clock1, h.clock2, h.channels, h.validated, hclear⟩

/-! ### What its parts are about -/

theorem sized_congr {s t : State} (h : SameMachine s t) : sized s → sized t := by
  have hi := h.bank .inputs
  have hp := h.bank .pots
  have hs := h.bank .switches
  simp only [State.bank_inputs, State.bank_pots, State.bank_switches] at hi hp hs
  simp only [sized, hi, hp, hs, h.outputs, imp_self]

theorem bank_configView {s t : State} (h : t.configView = s.configView) (b : Bank) :
    (t.bank b).map Channel.configView = (s.bank b).map Channel.configView := by
  cases b with
  | inputs => exact congrArg (·.inputs) h
  | pots => exact congrArg (·.pots) h
  | switches => exact congrArg (·.switches) h

/-- What a view shows of every element of a list, it shows of every element of a list with the same views. -/
theorem forall_mem_of_map_eq {α β : Type} {g : α → β} {l l' : List α} (h : l'.map g = l.map g) {p q : α → Prop}
    (hpq : ∀ x y, g y = g x → p x → q y) (hl : ∀ x ∈ l, p x) : ∀ y ∈ l', q y := by
  intro y hy
  have hmem : g y ∈ l.map g := h ▸ List.mem_map_of_mem hy
  obtain ⟨x, hx, hxy⟩ := List.mem_map.1 hmem
  exact hpq x y hxy.symm (hl x hx)

theorem dividerOk_congr {x y : Channel} (h : y.configView = x.configView) : dividerOk x → dividerOk y := by
  have h1 : y.r1 = x.r1 := congrArg (·.r1) h
  have h2 : y.r2 = x.r2 := congrArg (·.r2) h
  simp only [dividerOk, h1, h2, imp_self]

/-- START's checks read the configuration alone (45_step_orchestrator.md R182). -/
theorem configOk_congr {s t : State} (h : t.configView = s.configView) (hok : configOk s) : configOk t := by
  obtain ⟨hcount, h1, h2, hd, hp⟩ := hok
  have hm := SameMachine.of_configView h
  have hlen : t.inputs.length = s.inputs.length := hm.bank .inputs
  have hsrc1 : t.clk1.src = s.clk1.src := congrArg (·.clk1Src) h
  have hsrc2 : t.clk2.src = s.clk2.src := congrArg (·.clk2Src) h
  have ha : analogCount t = analogCount s := analogCount_congr (congrArg (·.analog) h)
  refine ⟨ha.le.trans hcount, ?clk1, ?clk2,
    fun b => forall_mem_of_map_eq (bank_configView h b) (fun _ _ => dividerOk_congr) (hd b),
    forall_mem_of_map_eq (bank_configView h .pots) (fun x y e hx => ?pot) hp⟩
  case clk1 => rwa [clockSrcOk, hsrc1, hlen]
  case clk2 => rwa [clockSrcOk, hsrc2, hlen]
  case pot =>
    have hv : y.vmax = x.vmax := congrArg (·.vmax) e
    have ht : y.tol = x.tol := congrArg (·.tol) e
    rwa [hv, ht]

/-- Outside CONFIG less is said of a detector. -/
theorem clockOk.leave_config {m m' : Mode} {c : Clock} (h : clockOk m c) (hm : m' ≠ .config) : clockOk m' c := by
  obtain ⟨hrise, hfall, hoff⟩ := h
  exact ⟨hrise, hfall, fun hor => hoff (.inr (hor.resolve_left hm))⟩

theorem channelOk.leave_config {m m' : Mode} {b : Bank} {ch : Channel} (h : channelOk m b ch) (hm : m' ≠ .config) :
    channelOk m' b ch := by
  obtain ⟨hrange, hhist, -⟩ := h
  exact ⟨hrange, hhist, fun hc => absurd hc hm⟩

/-- In CONFIG a detector is in its reset state (42_clock_edge_detector.md R139). -/
theorem clockOk_config {c : Clock} :
    clockOk .config c ↔ c.level = false ∧ c.rise = false ∧ c.fall = false := by
  refine ⟨fun h => h.2.2 (.inl rfl), fun ⟨hl, hr, hf⟩ => ⟨fun h => ?_, fun _ => hl, fun _ => ⟨hl, hr, hf⟩⟩⟩
  exact absurd h (by simp [hr])

/-- In CONFIG nothing has been published (45_step_orchestrator.md R193), and 0 is in every range. -/
theorem channelOk_config {b : Bank} {ch : Channel} :
    channelOk .config b ch ↔ ch.reading = 0 ∧ histNonneg ch.hist := by
  refine ⟨fun ⟨_, hhist, hzero⟩ => ⟨hzero rfl, hhist⟩, fun ⟨hzero, hhist⟩ => ⟨?_, hhist, fun _ => hzero⟩⟩
  cases b <;> simp [readingInRange, hzero, s32]

/-- A detector whose events have been cleared. -/
theorem clockOk.cleared {m : Mode} {c : Clock} (h : clockOk m c) :
    clockOk m { c with rise := false, fall := false } :=
  ⟨fun hr => absurd hr (by simp), fun hf => absurd hf (by simp), fun hoff => ⟨(h.2.2 hoff).1, rfl, rfl⟩⟩

theorem Clock.eq_cleared {c : Clock} (h : c.rise = false ∧ c.fall = false) :
    c = { c with rise := false, fall := false } := by
  obtain ⟨src, level, rise, fall⟩ := c
  obtain ⟨rfl, rfl⟩ := h
  rfl

/-- What one cycle makes of a detector (42_clock_edge_detector.md R138, R141). -/
theorem clockOk.cycle {c : Clock} (h : clockOk .run c) (inputs : List Channel) :
    clockOk .run (cycleClock inputs c) := by
  unfold cycleClock
  split
  · split
    · rename_i hen
      unfold detectCycle detect
      split
      · exact ⟨fun _ => rfl, fun hf => absurd hf (by simp), fun hoff => absurd hen (by simpa using hoff)⟩
      split
      · exact ⟨fun hr => absurd hr (by simp), fun _ => rfl, fun hoff => absurd hen (by simpa using hoff)⟩
      · exact h.cleared
    · exact h.cleared
  · exact h.cleared

/-! ### What keeps the inner invariant -/

/-- A change that shows in no register of the configuration and not in MODE, the fault record or the inputs to come. -/
theorem InnerInv.of_configView {s t : State} (h : InnerInv s) (hview : t.configView = s.configView)
    (hinbox : t.inbox = s.inbox) (hmode : t.mode = s.mode) (hcode : t.faultCode = s.faultCode)
    (hinfo : t.faultInfo = s.faultInfo) (hb : busIdle t.pins) (h1 : clockOk s.mode t.clk1) (h2 : clockOk s.mode t.clk2)
    (hch : ∀ b, ∀ ch ∈ t.bank b, channelOk s.mode b ch) : InnerInv t where
  hostOnly := hinbox ▸ h.hostOnly
  counts := sized_congr (.of_configView hview) h.counts
  record := by
    have hrecord := h.record
    rwa [faultRecordOk, ← hmode, ← hcode, ← hinfo] at hrecord
  bus := hb
  clock1 := hmode ▸ h1
  clock2 := hmode ▸ h2
  channels := hmode ▸ hch
  validated hm := configOk_congr hview (h.validated (hmode ▸ hm))

/-- From the conditioned channels to a wait point of the cycle: the bus is idle again wherever the cycle waits. -/
theorem InnerInv.of_cycleWaits {s t : State} (h : InnerInv s) (hw : CycleWaits s t)
    (hview : t.configView = s.configView) (h1 : clockOk s.mode t.clk1) (h2 : clockOk s.mode t.clk2) : InnerInv t := by
  have hframe := hw.frame
  have hb : busIdle t.pins := by
    by_cases hh : t.hook = .none
    · exact (hw.ended hh).2.1
    · rw [(hw.stopped hh).2.2]
      exact h.bus
  have hbank : ∀ b, t.bank b = s.bank b := fun b => by rw [hframe]; cases b <;> rfl
  refine h.of_configView hview (congrArg (·.inbox) hframe) (congrArg (·.mode) hframe) (congrArg (·.faultCode) hframe)
    (congrArg (·.faultInfo) hframe) hb h1 h2 fun b => ?_
  rw [hbank b]
  exact h.channels b

/-- RES, HOOK, PHASE and the draws are no part of it. -/
theorem InnerInv.of_control {s : State} (h : InnerInv s) (w : Word) (hk : Hook) (p : Phase) (l : List (BitVec 24))
    (n : Nat) : InnerInv { s with res := w, hook := hk, phase := p, samples := l, free := n } :=
  ⟨h.hostOnly, h.counts, h.record, h.bus, h.clock1, h.clock2, h.channels, h.validated⟩

/-- A raise leads from any of these states to HALTED, which is a wait point (60_exceptions.md R216). -/
theorem InnerInv.raise {s : State} (h : InnerInv s) {code : FaultCode} (hcode : code ≠ .none) (info : Word) :
    RunInv (s.raise code info) where
  hostOnly := h.hostOnly
  counts := h.counts
  waits := .inr (.inr rfl)
  record := ⟨⟨fun _ => hcode, fun _ => rfl⟩, fun hm => absurd rfl hm⟩
  bus := h.bus
  clock1 := h.clock1.leave_config (by simp)
  clock2 := h.clock2.leave_config (by simp)
  channels b ch hch := (h.channels b ch (by rwa [State.raise_bank] at hch)).leave_config (by simp)
  validated hm := by cases hm
  secondClear hm := by cases hm

/-! ### The wait points of a cycle (45_step_orchestrator.md R185) -/

theorem runWaitPoint_of_stepHook {c : Ctrl} {t : State} (h : waitsAtStepHook c t) :
    runWaitPoint t ∧ t.phase ≠ .clk1 := by
  unfold waitsAtStepHook at h
  split at h
  · exact ⟨.inr (.inr (.inr (.inr h))), by simp [h.1]⟩
  · exact ⟨.inl h, by simp [h.1]⟩

theorem runWaitPoint_of_clk2 {c : Ctrl} {t : State} (h : waitsAtClk2 c t) : runWaitPoint t ∧ t.phase ≠ .clk1 := by
  unfold waitsAtClk2 at h
  split at h
  · exact ⟨.inr (.inr (.inr (.inl ⟨h.1, .inl h.2⟩))), by simp [h.1]⟩
  split at h
  · exact ⟨.inr (.inr (.inr (.inl ⟨h.1, .inr h.2⟩))), by simp [h.1]⟩
  · exact runWaitPoint_of_stepHook h

/-- A cycle waits with CLK2 cleared, and then perhaps at CLK1, or with CLK2 having seen its level. -/
theorem runWaitPoint_of_clk1 {c : Ctrl} {inputs : List Channel} {c2 : Clock} {t : State}
    (h : waitsAtClk1 c inputs c2 t) :
    runWaitPoint t ∧ (t.clk2 = { c2 with rise := false, fall := false } ∨
      t.clk2 = cycleClock inputs c2 ∧ t.phase ≠ .clk1) := by
  unfold waitsAtClk1 at h
  split at h
  · obtain ⟨hp, hh, hc⟩ := h
    exact ⟨.inr (.inr (.inl ⟨hp, .inl hh⟩)), .inl hc⟩
  split at h
  · obtain ⟨hp, hh, hc⟩ := h
    exact ⟨.inr (.inr (.inl ⟨hp, .inr hh⟩)), .inl hc⟩
  · obtain ⟨hwait, hne⟩ := runWaitPoint_of_clk2 h.2
    exact ⟨hwait, .inr ⟨h.1, hne⟩⟩

/-! ### The phases of a cycle, from its end -/

theorem InnerInv.runInv_of_run {t : State} (h : InnerInv t) (hm : t.mode = .run) (hw : runWaitPoint t)
    (hclear : t.phase = .clk1 → t.clk2.rise = false ∧ t.clk2.fall = false) : RunInv t :=
  h.runInv (.inr (.inl ⟨hm, hw⟩)) fun _ => hclear

section Cycle

variable {s : State}

theorem seqStepHook_runInv (h : InnerInv s) (hm : s.mode = .run) (hh : s.hook = .none) : RunInv (seqStepHook s) := by
  obtain ⟨hclk1, hclk2, hat, hw⟩ := seqStepHook_waits hh (h.validated hm).1 h.bus
  obtain ⟨hwait, hne⟩ := runWaitPoint_of_stepHook hat
  have hinner := h.of_cycleWaits hw (seqStepHook_cycleFrame s).config (hclk1 ▸ h.clock1) (hclk2 ▸ h.clock2)
  exact hinner.runInv_of_run ((congrArg (·.mode) hw.frame).trans hm) hwait fun hp => absurd hp hne

theorem seqCommit_runInv (h : InnerInv s) (hm : s.mode = .run) (hh : s.hook = .none) : RunInv (seqCommit s) := by
  have hend := seqCommit_ends (h.validated hm).1 h.bus
  have hinner := h.of_cycleWaits (.of_ended hh hend) (seqCommit_cycleFrame s).config
    ((congrArg (·.clk1) hend.frame) ▸ h.clock1) ((congrArg (·.clk2) hend.frame) ▸ h.clock2)
  exact hinner.runInv_of_run ((congrArg (·.mode) hend.frame).trans hm) (.inl ⟨hend.phase, hend.hook.trans hh⟩)
    fun hp => absurd (hend.phase.symm.trans hp) (by simp)

/-- CLK2, whether STEP has come to it or ACK of a CLK1 hook: its events are cleared. -/
theorem seqClk2_runInv (h : InnerInv s) (hm : s.mode = .run) (hh : s.hook = .none)
    (hclear : s.clk2.rise = false ∧ s.clk2.fall = false) : RunInv (seqClk2 s) := by
  obtain ⟨hcount, -, hsrc, -⟩ := h.validated hm
  obtain ⟨hclk1, hclk2, hat, hw⟩ := seqClk2_waits (Clock.eq_cleared hclear) hsrc hh hcount h.bus
  obtain ⟨hwait, hne⟩ := runWaitPoint_of_clk2 hat
  have hcycle : clockOk s.mode (cycleClock s.inputs s.clk2) := hm ▸ (hm ▸ h.clock2 : clockOk .run s.clk2).cycle _
  have hinner := h.of_cycleWaits hw (seqClk2_cycleFrame s).config (hclk1 ▸ h.clock1) (hclk2 ▸ hcycle)
  exact hinner.runInv_of_run ((congrArg (·.mode) hw.frame).trans hm) hwait fun hp => absurd hp hne

/-- CLK1 after the channels: the events of both detectors are cleared. -/
theorem seqClk1_runInv (h : InnerInv s) (hm : s.mode = .run) (hh : s.hook = .none)
    (hclear1 : s.clk1.rise = false ∧ s.clk1.fall = false) (hclear2 : s.clk2.rise = false ∧ s.clk2.fall = false) :
    RunInv (seqClk1 s) := by
  obtain ⟨hcount, hsrc1, hsrc2, -⟩ := h.validated hm
  obtain ⟨hclk1, hat, hw⟩ := seqClk1_waits (Clock.eq_cleared hclear1) (Clock.eq_cleared hclear2) hsrc1 hsrc2 hh hcount
    h.bus
  obtain ⟨hwait, hclk2⟩ := runWaitPoint_of_clk1 hat
  have hcycle : ∀ c, clockOk s.mode c → clockOk s.mode (cycleClock s.inputs c) := fun c hc =>
    hm ▸ (hm ▸ hc : clockOk .run c).cycle _
  have hok2 : clockOk s.mode (seqClk1 s).clk2 := by
    rcases hclk2 with e | ⟨e, -⟩ <;> rw [e]
    · exact h.clock2.cleared
    · exact hcycle _ h.clock2
  have hinner := h.of_cycleWaits hw (seqClk1_cycleFrame s).config (hclk1 ▸ hcycle _ h.clock1) hok2
  refine hinner.runInv_of_run ((congrArg (·.mode) hw.frame).trans hm) hwait fun hp => ?_
  rcases hclk2 with e | ⟨-, hne⟩
  · rw [e]
    exact ⟨rfl, rfl⟩
  · exact absurd hp hne

end Cycle

/-! ### The conditioning phases (45_step_orchestrator.md R186) -/

/-- A channel of a bank in the conditioning phases: it is conditioned, or still what it was. -/
theorem CycleUpTo.channel {s u : State} {n : Nat} {p : Phase} (h : CycleUpTo s n u p) {b : Bank} {c : Nat}
    {ch : Channel} (hc : (s.bank b)[c]? = some ch) :
    ∃ ch', (u.bank b)[c]? = some ch' ∧ (ch' = ch ∨ ∃ smp, conditioned s.params b smp ch = some ch') := by
  by_cases hn : drawIndex s b c < n
  · obtain ⟨ch', hcond, hu⟩ := h.before b c ch hn hc
    exact ⟨ch', hu, .inr ⟨_, hcond⟩⟩
  · exact ⟨ch, (h.later b c (List.getElem?_eq_some_iff.1 hc).1 (not_lt.1 hn)).trans hc, .inl rfl⟩

theorem CycleUpTo.bank_configView {s u : State} {n : Nat} {p : Phase} (h : CycleUpTo s n u p) (b : Bank) :
    (u.bank b).map Channel.configView = (s.bank b).map Channel.configView := by
  apply List.ext_getElem?
  intro c
  rw [List.getElem?_map, List.getElem?_map]
  cases hc : (s.bank b)[c]? with
  | none =>
    have hlen : (u.bank b).length ≤ c := (h.length b).le.trans (List.getElem?_eq_none_iff.1 hc)
    rw [List.getElem?_eq_none hlen]
  | some ch =>
    obtain ⟨ch', hu, rfl | ⟨smp, hcond⟩⟩ := h.channel hc
    · rw [hu]
    · rw [hu, Option.map_some, Option.map_some, conditioned_config hcond]

theorem CycleUpTo.configView {s u : State} {n : Nat} {p : Phase} (h : CycleUpTo s n u p) :
    u.configView = s.configView := by
  have hi := h.bank_configView .inputs
  have hp := h.bank_configView .pots
  have hs := h.bank_configView .switches
  simp only [State.bank_inputs, State.bank_pots, State.bank_switches] at hi hp hs
  unfold State.configView
  rw [hi, hp, hs, h.rest]
  rfl

/-- The published values stay in their ranges (10_state.md R34). -/
theorem CycleUpTo.innerInv {s u : State} {n : Nat} {p : Phase} (h : CycleUpTo s n u p) (hs : InnerInv s)
    (hm : s.mode = .run) : InnerInv u := by
  have hpins : u.pins = s.pins := congrArg (·.pins) h.rest
  have hclk1 : u.clk1 = { s.clk1 with rise := false, fall := false } := congrArg (·.clk1) h.rest
  have hclk2 : u.clk2 = { s.clk2 with rise := false, fall := false } := congrArg (·.clk2) h.rest
  refine hs.of_configView h.configView (congrArg (·.inbox) h.rest) (congrArg (·.mode) h.rest)
    (congrArg (·.faultCode) h.rest) (congrArg (·.faultInfo) h.rest) (hpins ▸ hs.bus) (hclk1 ▸ hs.clock1.cleared)
    (hclk2 ▸ hs.clock2.cleared) fun b => forall_mem_iff_forall_getElem?.2 fun c ch' hu => ?_
  have hlt : c < (s.bank b).length := h.length b ▸ (List.getElem?_eq_some_iff.1 hu).1
  have hc : (s.bank b)[c]? = some (s.bank b)[c] := List.getElem?_eq_getElem hlt
  have hok := hs.channels b _ (List.getElem_mem hlt)
  obtain ⟨x, hx, rfl | ⟨smp, hcond⟩⟩ := h.channel hc
  · rw [hu] at hx
    cases hx
    exact hok
  · rw [hu] at hx
    cases hx
    obtain ⟨hrange, hhist⟩ := conditioned_ok hcond hok.2.1
    exact ⟨hrange, hhist, fun hconf => absurd (hm.symm.trans hconf) (by simp)⟩

theorem InnerInv.afterSample {s : State} (h : InnerInv s) : InnerInv s.afterSample := by
  unfold State.afterSample
  split
  · exact h.of_control s.res s.hook s.phase _ s.free
  · exact h.of_control s.res s.hook s.phase s.samples _

/-- A cycle that conditions all its channels, and one that raises (60_exceptions.md R221). -/
theorem seqCondIn_runInv {s : State} (h : InnerInv s) (hm : s.mode = .run) (hh : s.hook = .none) :
    RunInv (seqCondIn s) := by
  obtain ⟨-, -, -, hd, hp⟩ := h.validated hm
  rcases seqCondIn_cases (by simp [hm]) hd hp with ⟨u, hu, e⟩ | ⟨b, c, ch, w, -, -, hw, e⟩ <;> rw [e]
  · have hclk1 : u.clk1 = { s.clk1 with rise := false, fall := false } := congrArg (·.clk1) hu.rest
    have hclk2 : u.clk2 = { s.clk2 with rise := false, fall := false } := congrArg (·.clk2) hu.rest
    exact seqClk1_runInv (hu.innerInv h hm) ((congrArg (·.mode) hu.rest).trans hm)
      ((congrArg (·.hook) hu.rest).trans hh) (by rw [hclk1]; exact ⟨rfl, rfl⟩) (by rw [hclk2]; exact ⟨rfl, rfl⟩)
  · exact (hw.innerInv h hm).afterSample.raise (by decide) _

/-! ### The host commands that go beyond an answer -/

theorem stepRule_runInv {s : State} (h : RunInv s) (hm : s.mode = .run) (hh : s.hook = .none) : RunInv (stepRule s) :=
  seqCondIn_runInv (h.inner.of_control 0 s.hook s.phase s.samples s.free) hm hh

theorem ackRule_runInv {s : State} (h : RunInv s) (hm : s.mode = .run) (hh : s.hook ≠ .none) : RunInv (ackRule s) := by
  have hinner : InnerInv { s with res := 0, hook := .none } := h.inner.of_control 0 .none s.phase s.samples s.free
  have hclear : s.hook = .rise1 ∨ s.hook = .fall1 → s.clk2.rise = false ∧ s.clk2.fall = false := fun hclk1 => by
    have hw := h.runWaitPoint_of_run hm
    refine h.secondClear hm ?_
    rcases hclk1 with hk | hk <;> simpa [runWaitPoint, hk] using hw
  show RunInv (resumeAfter s.hook { s with res := 0, hook := .none })
  cases hk : s.hook with
  | none => exact absurd hk hh
  | start =>
    have hidle : InnerInv { s with res := 0, hook := .none, phase := .idle } :=
      h.inner.of_control 0 .none .idle s.samples s.free
    exact hidle.runInv_of_run hm (.inl ⟨rfl, rfl⟩) fun hp => by cases hp
  | rise1 => exact seqClk2_runInv hinner hm rfl (hclear (.inl hk))
  | fall1 => exact seqClk2_runInv hinner hm rfl (hclear (.inr hk))
  | rise2 => exact seqStepHook_runInv hinner hm rfl
  | fall2 => exact seqStepHook_runInv hinner hm rfl
  | step => exact seqCommit_runInv hinner hm rfl

/-- From CONFIG, with a configuration that passes, into RUN (45_step_orchestrator.md R182). -/
theorem enterRun_runInv {s : State} (h : RunInv s) (hm : s.mode = .config) (hok : configOk s) :
    RunInv (enterRun s) := by
  have hhook := h.hook_of_config hm
  have hrecord : s.faultCode = .none ∧ s.faultInfo = 0 :=
    ⟨by simpa [hm] using h.record.1, h.record.2 (by simp [hm])⟩
  rw [enterRun_eq]
  refine InnerInv.runInv_of_run ⟨h.hostOnly, h.counts, ?record, h.bus, h.clock1.leave_config (by simp),
    h.clock2.leave_config (by simp), fun b ch hch => (h.channels b ch hch).leave_config (by simp), fun _ => hok⟩
    rfl ?waits ?clear
  case record => exact ⟨by simp [hrecord.1], fun _ => hrecord.2⟩
  case waits =>
    cases he : s.ctrl.heStart with
    | true => exact .inr (.inl ⟨rfl, rfl⟩)
    | false => exact .inl ⟨rfl, hhook⟩
  case clear =>
    intro hp
    cases he : s.ctrl.heStart <;> simp [he] at hp

theorem RunInv.setRes {s : State} (h : RunInv s) (w : Word) : RunInv (s.setRes w) :=
  (h.inner.of_control w s.hook s.phase s.samples s.free).runInv h.waits h.secondClear

/-! ### WR (40_host_interface.md R82) -/

/-- In CONFIG the registers of the configuration are free, and what the invariant says of the cycle's state no WR
writes. -/
theorem stored_runInv_of_config {s : State} (h : RunInv s) (hm : s.mode = .config) (r : Reg) (x : Word) :
    RunInv ((s.writeReg r x).setRes 0) := by
  have hframe := State.writeReg_frame s r x
  have huntouched := CycleUntouched.stored s r x
  have hmode : ((s.writeReg r x).setRes 0).mode = .config := (congrArg (·.mode) hframe).trans hm
  have hclock : ∀ n, clockOk s.mode (s.clock n) →
      clockOk ((s.writeReg r x).setRes 0).mode (((s.writeReg r x).setRes 0).clock n) := fun n hok => by
    rw [hm, clockOk_config] at hok
    obtain ⟨hl, hr, hf⟩ := hok
    have hn := huntouched.clock n
    rw [hl, hr, hf, Prod.mk.injEq, Prod.mk.injEq] at hn
    rwa [hmode, clockOk_config]
  refine ⟨?inbox, sized_congr (.stored s r x) h.counts, ?waits, ?record, ?bus, hclock false h.clock1,
    hclock true h.clock2, fun b => ?channels, fun hrun => ?_, fun hrun => ?_⟩
  case inbox => rw [hframe]; exact h.hostOnly
  case waits => rw [hframe]; exact h.waits
  case record => rw [hframe]; exact h.record
  case bus => exact huntouched.pins ▸ h.bus
  case channels =>
    refine forall_mem_of_map_eq (huntouched.bank b) (fun ch ch' e hok => ?_) (h.channels b)
    obtain ⟨hreading, hhist⟩ := Prod.mk.inj e
    rw [hm, channelOk_config] at hok
    rwa [hmode, channelOk_config, hreading, hhist]
  all_goals exact absurd (hmode.symm.trans hrun) (by simp)

theorem eq_desired_of_access {r : Reg} (hro : regAccess r ≠ .readOnly) (hc : regAccess r ≠ .config) :
    ∃ o, r = .out o .desired := by
  cases r with
  | status | fault | faultInfo | events | params => exact absurd rfl hro
  | ctrl | clkSrc => exact absurd rfl hc
  | chan b c f =>
    cases f with
    | reading => exact absurd rfl hro
    | cctl | r1 | r2 | cutoff | vmax | tol => exact absurd rfl hc
  | out o f =>
    cases f with
    | octl => exact absurd rfl hc
    | desired => exact ⟨o, rfl⟩

theorem State.writeReg_out_frame (s : State) (o : Nat) (f : OutReg) (x : Word) :
    s.writeReg (.out o f) x = { s with outputs := (s.writeReg (.out o f) x).outputs } := by
  cases ho : s.outputs[o]? with
  | none => simp only [State.writeReg, ho]
  | some out => rw [State.writeReg_out ho]; rfl

/-- DESIRED may be written in RUN, and is no part of the invariant. -/
theorem stored_runInv_of_desired {s : State} (h : RunInv s) (o : Nat) (x : Word) :
    RunInv ((s.writeReg (.out o .desired) x).setRes 0) := by
  have hview := State.writeReg_configView (s := s) (r := .out o .desired) (by simp [regAccess]) x
  rw [State.writeReg_out_frame s o .desired x] at hview ⊢
  exact ((h.inner.of_configView hview rfl rfl rfl rfl h.bus h.clock1 h.clock2 h.channels).runInv h.waits
    h.secondClear).setRes 0

theorem stored_runInv {s : State} {r : Reg} (h : RunInv s) (hro : regAccess r ≠ .readOnly)
    (hm : regAccess r = .config → s.mode = .config) (x : Word) : RunInv ((s.writeReg r x).setRes 0) := by
  by_cases hc : regAccess r = .config
  · exact stored_runInv_of_config h (hm hc) r x
  · obtain ⟨o, rfl⟩ := eq_desired_of_access hro hc
    exact stored_runInv_of_desired h o x

/-! ### Every step -/

theorem HostEffect.runInv {i : Instr} {s t : State} (he : HostEffect s i t) (h : RunInv s) : RunInv t := by
  cases he with
  | answers w => exact h.setRes w
  | raises info hcode => exact h.inner.raise hcode info
  | stores hro hm => exact stored_runInv h hro hm _
  | starts hm hok => exact enterRun_runInv h hm hok
  | steps hm _ hh => exact stepRule_runInv h hm hh
  | acks hm hh => exact ackRule_runInv h hm hh

theorem illegalCw_runInv {s : State} (h : RunInv s) : RunInv (illegalCw s) := by
  unfold illegalCw
  split
  · exact h.setRes 0
  · exact h.inner.raise (by decide) _

/-- The latches are no part of the invariant, and the inputs to come are the host's still. -/
theorem RunInv.received {s : State} {y : Input} {rest : List Input} (h : RunInv s) (hin : s.inbox = y :: rest)
    (c : Cmd) : RunInv (s.received rest c) :=
  ⟨fun x hx => h.hostOnly x (hin ▸ List.mem_cons_of_mem y hx), h.counts, h.waits, h.record, h.bus, h.clock1, h.clock2,
    h.channels, h.validated, h.secondClear⟩

theorem channelOk_reset (b : Bank) : channelOk .config b Channel.reset :=
  channelOk_config.2 ⟨rfl, by unfold histNonneg; decide⟩

theorem RunInv.rst {s : State} {y : Input} {rest : List Input} (h : RunInv s) (hin : s.inbox = y :: rest) :
    RunInv { s with inbox := rest }.rst where
  hostOnly x hx := h.hostOnly x (hin ▸ List.mem_cons_of_mem y hx)
  counts := sized_congr (.rst s rest) h.counts
  waits := .inl ⟨rfl, rfl, rfl⟩
  record := ⟨by simp [State.rst], fun _ => rfl⟩
  bus := ⟨rfl, rfl, rfl, rfl, rfl⟩
  clock1 := clockOk_config.2 ⟨rfl, rfl, rfl⟩
  clock2 := clockOk_config.2 ⟨rfl, rfl, rfl⟩
  channels b ch hch := by
    have hreset : ch = Channel.reset := by
      cases b <;> exact (List.mem_map.1 hch).elim fun _ hx => hx.2.symm
    rw [hreset]
    exact channelOk_reset b
  validated hm := by cases hm
  secondClear hm := by cases hm

/-! ### The statement -/

/-- Settles O53: a step waits, resets, turns an illegal word away, or has the effect of a host command, each of which
keeps the invariant. -/
theorem stepKeepsTheInvariant : Obligations.StepKeepsTheInvariant := by
  intro s t h hstep
  cases hin : s.inbox with
  | nil =>
    rw [step_of_empty hin] at hstep
    cases hstep
    exact h
  | cons x rest =>
    have hhost : x.fromHost = true := h.hostOnly x (by simp [hin])
    cases x with
    | rst =>
      rw [step_of_rst hin] at hstep
      cases hstep
      exact h.rst hin
    | cmd c =>
      cases hlegal : legalCw c.cw with
      | false =>
        rw [step_of_illegal (fetch_cmd_illegal hin hlegal)] at hstep
        cases hstep
        exact illegalCw_runInv (h.received hin c)
      | true =>
        obtain ⟨i, hi, henc⟩ := legalCw_iff_exists_encode.1 hlegal
        rw [step_of_runs (fetch_cmd hin (decode_of_encode_eq henc) hi)] at hstep
        exact (hostEffect_of_exec hi hstep).runInv (h.received hin c)
    | micro | frame => cases hhost

end Sys2Proof.Machine
end

section
/-! SUPPORT. The search of the Scale Quantizer on the unwrapped semitone line, its result as the nearest enabled
semitone, and the statements of 46_scale_quantizer.md. -/

namespace Sys2Proof.Machine

/-! ### The unwrapped semitone line (46_scale_quantizer.md R205, R208)

Semitone n of the line is tone n mod 12, n div 12 octaves above the octave of the input. The search walks the line one
semitone at a time on each side, and its wraps at tones 0 and 11 are steps of the line like any other. -/

/-- The tone of a semitone of the line. -/
def toneOf (n : Int) : Nat := (n % 12).toNat

/-- The tone and the octave shift of a semitone of the line. -/
def placeOf (n : Int) : Nat × Int := (toneOf n, n / 12)

/-- Is the tone of this semitone in the scale? -/
def inScale (mask : BitVec 12) (n : Int) : Bool := mask.getLsbD (toneOf n)

theorem toneOf_lt (n : Int) : toneOf n < 12 := by unfold toneOf; omega

theorem toneOf_add_shift (n : Int) : (toneOf n : Int) + 12 * (n / 12) = n := by unfold toneOf; omega

theorem placeOf_add {t : Nat} (ht : t < 12) (sh : Int) : placeOf (t + 12 * sh) = (t, sh) := by
  refine Prod.ext ?_ ?_ <;> simp only [placeOf, toneOf] <;> omega

theorem inScale_add (mask : BitVec 12) {t : Nat} (ht : t < 12) (sh : Int) :
    inScale mask (t + 12 * sh) = mask.getLsbD t :=
  congrArg (fun place : Nat × Int => mask.getLsbD place.1) (placeOf_add ht sh)

/-- One semitone down wraps from tone 0 to tone 11 of the octave below (R205). -/
theorem placeOf_pred (n : Int) : placeOf (n - 1) =
    (if (placeOf n).1 = 0 then 11 else (placeOf n).1 - 1,
      if (placeOf n).1 = 0 then (placeOf n).2 - 1 else (placeOf n).2) := by
  split_ifs with h <;> simp only [placeOf, toneOf, Prod.mk.injEq] at h ⊢ <;> omega

/-- One semitone up wraps from tone 11 to tone 0 of the octave above (R205). -/
theorem placeOf_succ (n : Int) : placeOf (n + 1) =
    (if (placeOf n).1 = 11 then 0 else (placeOf n).1 + 1,
      if (placeOf n).1 = 11 then (placeOf n).2 + 1 else (placeOf n).2) := by
  split_ifs with h <;> simp only [placeOf, toneOf, Prod.mk.injEq] at h ⊢ <;> omega

/-- Twelve semitones in a row hold every tone. -/
theorem exists_toneOf_eq {t : Nat} (ht : t < 12) (n : Int) : ∃ k : Int, n ≤ k ∧ k < n + 12 ∧ toneOf k = t :=
  ⟨n + (t - n) % 12, by omega, by omega, by unfold toneOf; omega⟩

theorem exists_tone_of_ne_zero {mask : BitVec 12} (h : mask ≠ 0) : ∃ t < 12, mask.getLsbD t = true := by
  by_contra hnone
  refine h (BitVec.eq_of_getLsbD_eq fun t ht => ?_)
  simpa using fun hset => hnone ⟨t, ht, hset⟩

/-! ### The search (46_scale_quantizer.md R204, R205, R207) -/

/-- The search from the semitones `lo` and `hi` of the line. -/
def lineSearch (mask : BitVec 12) (pos : Int) (fuel : Nat) (lo hi : Int) : Option (Nat × Int) :=
  quantSearch mask pos fuel (placeOf lo).1 (placeOf hi).1 (placeOf lo).2 (placeOf hi).2

/-- One examination: the lower candidate is selected where it alone is enabled or the upper is not nearer, the upper
where it is enabled otherwise, and with neither enabled both sides move on by a semitone. -/
theorem lineSearch_succ (mask : BitVec 12) (pos : Int) (fuel : Nat) (lo hi : Int) :
    lineSearch mask pos (fuel + 1) lo hi =
      if inScale mask lo = true ∧ (inScale mask hi = true → pos - 1000 * lo ≤ 1000 * hi - pos) then some (placeOf lo)
      else if inScale mask hi = true then some (placeOf hi)
      else lineSearch mask pos fuel (lo - 1) (hi + 1) := by
  have hlo : mask.getLsbD (placeOf lo).1 = inScale mask lo := rfl
  have hhi : mask.getLsbD (placeOf hi).1 = inScale mask hi := rfl
  have hlow : ((placeOf lo).1 : Int) + 12 * (placeOf lo).2 = lo := toneOf_add_shift lo
  have hhigh : ((placeOf hi).1 : Int) + 12 * (placeOf hi).2 = hi := toneOf_add_shift hi
  unfold lineSearch
  rw [quantSearch, hlo, hhi, hlow, hhigh]
  cases inScale mask lo <;> cases inScale mask hi
  case false.false => simp [placeOf_pred, placeOf_succ]
  all_goals simp

/-- More fuel changes nothing (R207). -/
theorem quantSearch_add_fuel {mask : BitVec 12} {pos : Int} {n lo hi : Nat} {a b : Int} {r : Nat × Int} (m : Nat)
    (h : quantSearch mask pos n lo hi a b = some r) : quantSearch mask pos (n + m) lo hi a b = some r := by
  induction n generalizing lo hi a b with
  | zero => cases h
  | succ n ih =>
    rw [Nat.succ_add]
    unfold quantSearch at h ⊢
    cases hlo : mask.getLsbD lo <;> cases hhi : mask.getLsbD hi <;> rw [hlo, hhi] at h
    case false.false => exact ih h
    all_goals exact h

/-- A search that ends without a tone has examined as many semitones on each side as it had fuel (R207). -/
theorem not_inScale_of_lineSearch_eq_none {mask : BitVec 12} {pos : Int} {fuel : Nat} {lo hi : Int}
    (h : lineSearch mask pos fuel lo hi = none) (hbetween : ∀ n, lo < n → n < hi → inScale mask n = false) (n : Int)
    (hn : lo - fuel < n) (hn' : n < hi + fuel) : inScale mask n = false := by
  induction fuel generalizing lo hi with
  | zero => exact hbetween n (by omega) (by omega)
  | succ fuel ih =>
    rw [lineSearch_succ] at h
    split_ifs at h with hlo hhi
    refine ih h (fun k hk hk' => ?_) (by omega) (by omega)
    rcases eq_or_ne k lo with rfl | hne
    · simpa [hhi] using hlo
    rcases eq_or_ne k hi with rfl | hne'
    · simpa using hhi
    exact hbetween k (by omega) (by omega)

/-- Seven examinations see twelve semitones in a row, and so every tone (R207). -/
theorem lineSearch_seven_ne_none {mask : BitVec 12} (hmask : mask ≠ 0) {pos lo hi : Int} (hle : lo ≤ hi)
    (hbetween : ∀ n, lo < n → n < hi → inScale mask n = false) : lineSearch mask pos 7 lo hi ≠ none := by
  intro hnone
  obtain ⟨t, ht, hset⟩ := exists_tone_of_ne_zero hmask
  obtain ⟨n, hn, hn', rfl⟩ := exists_toneOf_eq ht (lo - 6)
  have hoff := not_inScale_of_lineSearch_eq_none hnone hbetween n (by omega) (by omega)
  exact Bool.false_ne_true (hoff.symm.trans hset)

/-! ### The nearest semitone (46_scale_quantizer.md R208) -/

/-- Semitone `n` is in the scale, none in the scale is nearer to the position, and none as near is lower. -/
structure Nearest (mask : BitVec 12) (pos n : Int) : Prop where
  enabled : inScale mask n = true
  least (m : Int) (hm : inScale mask m = true) :
    |pos - 1000 * n| ≤ |pos - 1000 * m| ∧ (|pos - 1000 * n| = |pos - 1000 * m| → n ≤ m)

/-- What the search keeps of its two candidates: they enclose the position with nothing in the scale between them, and
each is nearer than the next semitone of the other side, the lower one also where it is as near. -/
structure Brackets (mask : BitVec 12) (pos lo hi : Int) : Prop where
  lower : 1000 * lo ≤ pos
  upper : pos ≤ 1000 * hi
  lowerFirst : pos - 1000 * lo ≤ 1000 * (hi + 1) - pos
  upperFirst : 1000 * hi - pos < pos - 1000 * (lo - 1)
  between (n : Int) (hn : lo < n) (hn' : n < hi) : inScale mask n = false

section Line

variable {mask : BitVec 12} {pos lo hi : Int}

theorem Brackets.outside (h : Brackets mask pos lo hi) {m : Int} (hm : inScale mask m = true) : m ≤ lo ∨ hi ≤ m := by
  by_contra hin
  exact Bool.false_ne_true ((h.between m (by omega) (by omega)).symm.trans hm)

theorem Brackets.nearest_lower (h : Brackets mask pos lo hi) (hlo : inScale mask lo = true)
    (hhi : inScale mask hi = true → pos - 1000 * lo ≤ 1000 * hi - pos) : Nearest mask pos lo := by
  refine ⟨hlo, fun m hm => ?_⟩
  have hside := h.outside hm
  obtain ⟨hlower, hupper, hlowerFirst, hupperFirst, -⟩ := h
  have hlast : m = hi → pos - 1000 * lo ≤ 1000 * hi - pos := fun e => hhi (e ▸ hm)
  simp only [abs_eq_max_neg]
  omega

theorem Brackets.nearest_upper (h : Brackets mask pos lo hi) (hhi : inScale mask hi = true)
    (hlo : inScale mask lo = true → 1000 * hi - pos < pos - 1000 * lo) : Nearest mask pos hi := by
  refine ⟨hhi, fun m hm => ?_⟩
  have hside := h.outside hm
  obtain ⟨hlower, hupper, hlowerFirst, hupperFirst, -⟩ := h
  have hlast : m = lo → 1000 * hi - pos < pos - 1000 * lo := fun e => hlo (e ▸ hm)
  simp only [abs_eq_max_neg]
  omega

theorem Brackets.expand (h : Brackets mask pos lo hi) (hlo : inScale mask lo = false) (hhi : inScale mask hi = false) :
    Brackets mask pos (lo - 1) (hi + 1) := by
  obtain ⟨hlower, hupper, hlowerFirst, hupperFirst, hbetween⟩ := h
  refine ⟨by omega, by omega, by omega, by omega, fun n hn hn' => ?_⟩
  rcases eq_or_ne n lo with rfl | hne
  · exact hlo
  rcases eq_or_ne n hi with rfl | hne'
  · exact hhi
  exact hbetween n (by omega) (by omega)

/-- Whatever the search selects is the nearest semitone of the scale. -/
theorem Brackets.nearest_of_lineSearch {fuel : Nat} {place : Nat × Int} (h : Brackets mask pos lo hi)
    (hs : lineSearch mask pos fuel lo hi = some place) : ∃ n, placeOf n = place ∧ Nearest mask pos n := by
  induction fuel generalizing lo hi with
  | zero => cases hs
  | succ fuel ih =>
    rw [lineSearch_succ] at hs
    split_ifs at hs with hlo hhi
    · exact ⟨lo, Option.some.inj hs, h.nearest_lower hlo.1 hlo.2⟩
    · refine ⟨hi, Option.some.inj hs, h.nearest_upper hhi fun hboth => ?_⟩
      exact not_le.1 fun hle => hlo ⟨hboth, fun _ => hle⟩
    · have hhi' : inScale mask hi = false := by simpa using hhi
      have hlo' : inScale mask lo = false := by simpa [hhi'] using hlo
      exact ih (h.expand hlo' hhi') hs

/-- The nearest semitone is within half an octave, since its own tone is in the scale an octave up and down. -/
theorem Nearest.abs_le {n : Int} (h : Nearest mask pos n) : |pos - 1000 * n| ≤ 6000 := by
  have hshift (sh : Int) : inScale mask (n + 12 * sh) = true := by
    rw [← toneOf_add_shift n, add_assoc, ← mul_add, inScale_add mask (toneOf_lt n)]
    exact h.enabled
  have hup := (h.least _ (hshift 1)).1
  have hdown := (h.least _ (hshift (-1))).1
  simp only [abs_eq_max_neg] at *
  omega

/-! ### The bracketing tones of a voltage (46_scale_quantizer.md R202, R203) -/

theorem quantPos_eq (mv : Int) : quantPos mv = 12 * (mv % 1000) := by
  rw [quantPos, quantOct, floorDiv, ← Int.emod_def]

theorem floorTone_bounds (mv : Int) : floorTone mv < 12 ∧ 1000 * (floorTone mv : Int) ≤ quantPos mv ∧
    quantPos mv < 1000 * (floorTone mv : Int) + 1000 := by
  have hpos := quantPos_eq mv
  unfold floorTone floorDiv
  omega

theorem ceilTone_bounds (mv : Int) : ceilTone mv ≤ 12 ∧ floorTone mv ≤ ceilTone mv ∧ ceilTone mv ≤ floorTone mv + 1 ∧
    quantPos mv ≤ 1000 * (ceilTone mv : Int) ∧ 1000 * (ceilTone mv : Int) < quantPos mv + 1000 := by
  obtain ⟨hlt, hle, hlt'⟩ := floorTone_bounds mv
  unfold ceilTone
  rw [floorMod_eq_emod]
  split_ifs <;> push_cast <;> omega

theorem brackets_quantPos (mask : BitVec 12) (mv : Int) : Brackets mask (quantPos mv) (floorTone mv) (ceilTone mv) := by
  obtain ⟨-, hle, hlt⟩ := floorTone_bounds mv
  obtain ⟨-, -, hnext, hle', hlt'⟩ := ceilTone_bounds mv
  exact ⟨hle, hle', by omega, by omega, fun n hn hn' => by omega⟩

/-- The quantizer searches the line from the two bracketing semitones. -/
theorem quantTone_eq_lineSearch (mv : Int) (mask : BitVec 12) :
    quantTone mv mask = lineSearch mask (quantPos mv) 7 (floorTone mv) (ceilTone mv) := by
  have hfloor : placeOf (floorTone mv) = (floorTone mv, 0) := by
    simpa using placeOf_add (floorTone_bounds mv).1 0
  have hceil : placeOf (ceilTone mv) =
      (if ceilTone mv = 12 then 0 else ceilTone mv, if ceilTone mv = 12 then 1 else 0) := by
    have hle := (ceilTone_bounds mv).1
    split_ifs with hwrap
    · rw [hwrap]; rfl
    · simpa using placeOf_add (show ceilTone mv < 12 by omega) 0
  rw [lineSearch, hfloor, hceil, quantTone]

/-! ### The quantizer's value (46_scale_quantizer.md R206, R208, R212) -/

theorem quantTone_isSome (mv : Int) (hmask : mask ≠ 0) : (quantTone mv mask).isSome = true := by
  have hle : (floorTone mv : Int) ≤ ceilTone mv := by exact_mod_cast (ceilTone_bounds mv).2.1
  rw [quantTone_eq_lineSearch, Option.isSome_iff_ne_none]
  exact lineSearch_seven_ne_none hmask hle (brackets_quantPos mask mv).between

theorem quant_empty (p : Params) (mv : Int) : quant p mv 0 = mv := if_pos rfl

theorem quant_of_quantTone (p : Params) {mv : Int} {t : Nat} {sh : Int} (hmask : mask ≠ 0)
    (h : quantTone mv mask = some (t, sh)) : quant p mv mask = 1000 * (mv / 1000) + 1000 * sh + toneMv p t := by
  simp only [quant, if_neg hmask, h, quantOct, floorDiv]

/-- The quantizer answers the millivolts of the nearest semitone of a scale that is not empty (R208). -/
theorem exists_nearest_quant (p : Params) (mv : Int) (hmask : mask ≠ 0) :
    ∃ n, Nearest mask (12 * (mv % 1000)) n ∧
      quant p mv mask = 1000 * (mv / 1000) + 1000 * (n / 12) + toneMv p (toneOf n) := by
  obtain ⟨place, hplace⟩ := Option.isSome_iff_exists.1 (quantTone_isSome mv hmask)
  have hline := quantTone_eq_lineSearch mv mask ▸ hplace
  obtain ⟨n, rfl, hn⟩ := (brackets_quantPos mask mv).nearest_of_lineSearch hline
  exact ⟨n, quantPos_eq mv ▸ hn, quant_of_quantTone p hmask hplace⟩

/-- Both tables are less than 4 mV below the exact semitone (R206). -/
theorem toneMv_bounds (p : Params) {t : Nat} (ht : t < 12) :
    1000 * (t : Int) - 48 < 12 * toneMv p t ∧ 12 * toneMv p t ≤ 1000 * t := by
  unfold toneMv floorDiv
  split <;> omega

/-- Half an octave on the semitone line and the rounding of the table together stay below 1000 mV (R212). -/
theorem abs_quant_sub_lt (p : Params) (mv : Int) (mask : BitVec 12) : |quant p mv mask - mv| < 1000 := by
  rcases eq_or_ne mask 0 with rfl | hmask
  · rw [quant_empty, sub_self]; decide
  obtain ⟨n, hn, hq⟩ := exists_nearest_quant p mv hmask
  have hhalf := abs_le.1 hn.abs_le
  have htable := toneMv_bounds p (toneOf_lt n)
  have hsplit := toneOf_add_shift n
  rw [abs_lt]
  omega

end Line

/-! ### The host command QUANT (46_scale_quantizer.md R201) -/

theorem fits32_iff (x : Int) : fits32 x = true ↔ -2147483648 ≤ x ∧ x ≤ 2147483647 := by simp [fits32]

theorem exec_quant_of_not_halted {s : State} (h : s.mode ≠ .halted) : exec .quant s = .next (quantRule s) :=
  State.hostCommand_allowed h

theorem quantRule_of_fits {s : State}
    (h : -2147483648 ≤ quant s.params s.opa.toInt (s.opb.extractLsb' 0 12) ∧
      quant s.params s.opa.toInt (s.opb.extractLsb' 0 12) ≤ 2147483647) :
    quantRule s = s.setRes (w32 (quant s.params s.opa.toInt (s.opb.extractLsb' 0 12))) :=
  if_pos ((fits32_iff _).2 h)

theorem quantRule_of_range {s : State}
    (h : ¬(-2147483648 ≤ quant s.params s.opa.toInt (s.opb.extractLsb' 0 12) ∧
      quant s.params s.opa.toInt (s.opb.extractLsb' 0 12) ≤ 2147483647)) :
    quantRule s = s.raise .range s.cw :=
  if_neg (mt (fits32_iff _).1 h)

/-- An empty scale answers the operand, which always fits (R209 (a)). -/
theorem quantRule_of_empty {s : State} (h : s.opb.extractLsb' 0 12 = 0) : quantRule s = s.setRes s.opa := by
  have hq : quant s.params s.opa.toInt (s.opb.extractLsb' 0 12) = s.opa.toInt := by rw [h, quant_empty]
  rw [quantRule_of_fits (by rw [hq]; exact s32_bounds s.opa), hq, w32, BitVec.ofInt_toInt]

/-- The three examples of R212. -/
theorem quant_examples {p : Params} (hp : p.toneMv = .floorOfExact) :
    quant p 2147483647 0x001 = 2147484000 ∧ quant p 2147483647 0xFFF = 2147483666 ∧
    quant p (-2147483648) 0xFFF = -2147483667 := by
  have hroot : quantTone 2147483647 0x001 = some (0, 1) := by decide
  have htop : quantTone 2147483647 0xFFF = some (8, 0) := by decide
  have hbottom : quantTone (-2147483648) 0xFFF = some (4, 0) := by decide
  refine ⟨?_, ?_, ?_⟩
  · rw [quant_of_quantTone p (by decide) hroot, toneMv, hp]; rfl
  · rw [quant_of_quantTone p (by decide) htop, toneMv, hp]; rfl
  · rw [quant_of_quantTone p (by decide) hbottom, toneMv, hp]; rfl

/-! ### The statements -/

/-- Settles O43: an empty scale answers the operand; else the value decides between the answer and RANGE. -/
theorem quantAnswers : Obligations.QuantAnswers := by
  refine ⟨rfl, fun s hm => ?_⟩
  rw [exec_quant_of_not_halted hm]
  refine ⟨fun hempty => congrArg _ (quantRule_of_empty hempty), congrArg _ ?_⟩
  by_cases hfits : -2147483648 ≤ quant s.params s.opa.toInt (s.opb.extractLsb' 0 12) ∧
      quant s.params s.opa.toInt (s.opb.extractLsb' 0 12) ≤ 2147483647
  · exact (quantRule_of_fits hfits).trans (if_pos hfits).symm
  · exact (quantRule_of_range hfits).trans (if_neg hfits).symm

/-- Settles O44: the search keeps its brackets, so that what it selects is the nearest semitone of the scale. -/
theorem quantFindsTheNearestTone : Obligations.QuantFindsTheNearestTone := by
  intro p mv mask hmask
  obtain ⟨n, hn, hq⟩ := exists_nearest_quant p mv hmask
  refine ⟨toneOf n, n / 12, toneOf_lt n, hn.enabled, hq, fun t' sh' ht' hset => ?_⟩
  rw [toneOf_add_shift]
  exact hn.least _ ((inScale_add mask ht' sh').trans hset)

/-- Settles O45: seven examinations see every tone, and a found tone does not depend on the fuel left. -/
theorem quantSearchTerminates : Obligations.QuantSearchTerminates :=
  ⟨fun mv _ hmask => quantTone_isSome mv hmask, fun _ _ _ m _ _ _ _ _ => quantSearch_add_fuel m, by decide, by decide⟩

/-- Settles O46: the bound on the distance, and from it the answer; the examples from their selected tones. -/
theorem quantStaysWithinAnOctave : Obligations.QuantStaysWithinAnOctave := by
  refine ⟨abs_quant_sub_lt, fun s hm hlow hhigh => ?inside, fun p => quant_examples, fun s hm hp hex => ?outside⟩
  case inside =>
    have hbound := abs_lt.1 (abs_quant_sub_lt s.params s.opa.toInt (s.opb.extractLsb' 0 12))
    rw [exec_quant_of_not_halted hm, quantRule_of_fits (by omega)]
    rfl
  case outside =>
    obtain ⟨hroot, htop, hbottom⟩ := quant_examples hp
    rw [exec_quant_of_not_halted hm, quantRule_of_range ?_, State.raise_eq]
    rcases hex with ⟨ha, hb | hb⟩ | ⟨ha, hb⟩ <;> rw [ha, hb]
    · exact fun h => absurd (hroot ▸ h.2) (by decide)
    · exact fun h => absurd (htop ▸ h.2) (by decide)
    · exact fun h => absurd (hbottom ▸ h.1) (by decide)

end Sys2Proof.Machine
end

section
/-! SUPPORT. What the block does with a command that its state does not allow, what HALTED leaves of a host command, the
phases of a cycle that never raise, and the statements of 60_exceptions.md R216 to R221. -/

namespace Sys2Proof.Machine

/-! ### Commands out of phase (60_exceptions.md R218) -/

/-- Where a host command is not allowed it raises BAD_PHASE, whatever its rule. -/
theorem State.hostCommand_outOfPhase {s : State} {p : Prop} [Decidable p] {rule : State → State}
    (hm : s.mode ≠ .halted) (hp : ¬ p) :
    s.hostCommand (decide p) rule =
      .next { s with res := 0, mode := .halted, faultCode := .badPhase, faultInfo := s.cw } := by
  rw [decide_eq_false hp, State.hostCommand_badPhase hm, State.raise_eq]

/-! ### Host commands in HALTED (60_exceptions.md R220) -/

theorem illegalCw_of_halted {s : State} (h : s.mode = .halted) : illegalCw s = s.setRes 0 := if_pos h

/-- RD is the one command that HALTED performs, with the answer 0 at an unmapped address (40_host_interface.md R81). -/
theorem exec_rd_of_halted {s : State} (h : s.mode = .halted) (a : Addr) :
    exec (.rd a) s = .next (s.setRes ((s.readAt a).getD 0)) := by
  show execRd a s = _
  cases hr : s.readAt a with
  | some w => exact execRd_of_mapped hr
  | none => rw [execRd_of_unmapped hr, if_pos h, Option.getD_none]

theorem exec_of_halted_of_not_rd {i : Instr} {s : State} (h : s.mode = .halted) (hi : i.isHost = true)
    (hrd : ∀ a, i ≠ .rd a) : exec i s = .next (s.setRes 0) := by
  cases i with
  | nop => exact execNop_eq s
  | wr | start | step | ack | conv | pct | quant => exact State.hostCommand_halted h
  | thresh => exact State.hostCommand_halted (rule := fun u => u.setRes (threshVal u.opa u.opb)) h
  | dacenc sel => exact State.hostCommand_halted (rule := fun u => u.setRes ((enc (s32 u.opa) sel).setWidth 32)) h
  | rd a => exact absurd rfl (hrd a)
  | uCond | uSmooth | uClkdet | uCommit | uDacxfer | uHook | dacFrame => cases hi

theorem decodeCmd_of_upperHalf_rd {w : Word} (h : w.extractLsb' 16 16 = 0x0200) :
    decodeCmd w = .ok (.rd (cwImm w)) :=
  decode_of_encode_eq (i := .rd (cwImm w)) (congrArg Raw.cmd (mkCw_of_upperHalf (o := 0x02) (f := 0) h))

theorem upperHalf_of_decodeCmd_rd {w : Word} {a : Addr} (h : decodeCmd w = .ok (.rd a)) :
    w.extractLsb' 16 16 = 0x0200 := by
  cases encode_of_decodeCmd h
  exact upperHalf_mkCw 0x02 0 a

/-- No register shows the latches or the inputs still to come (10_state.md R18). -/
theorem State.readAt_received (s : State) (rest : List Input) (c : Cmd) (a : Addr) :
    (s.received rest c).readAt a = s.readAt a := by
  have hreg : (s.received rest c).regAt a = s.regAt a :=
    (SameMachine.of_configView (s.received_silent rest c).config).regAt a
  have hread : ∀ r, (s.received rest c).readReg r = s.readReg r := fun r => by cases r <;> rfl
  simp only [State.readAt, hreg, funext hread]

/-- Every command of the host but RD clears RES in HALTED, legal or not. -/
theorem step_of_halted_of_not_rd {s : State} {c : Cmd} {rest : List Input} (hin : s.inbox = .cmd c :: rest)
    (hm : s.mode = .halted) (hrd : c.cw.extractLsb' 16 16 ≠ 0x0200) :
    step s = .next ((s.received rest c).setRes 0) := by
  have hm' : (s.received rest c).mode = .halted := hm
  cases hlegal : legalCw c.cw with
  | false => rw [step_of_illegal (fetch_cmd_illegal hin hlegal), illegalCw_of_halted hm']
  | true =>
    obtain ⟨i, hi, henc⟩ := legalCw_iff_exists_encode.1 hlegal
    have hd : decodeCmd c.cw = .ok i := decode_of_encode_eq henc
    rw [step_of_runs (fetch_cmd hin hd hi)]
    exact exec_of_halted_of_not_rd hm' hi fun a ha => hrd (upperHalf_of_decodeCmd_rd (ha ▸ hd))

/-! ### The detectors and the COMMIT phase raise nothing (45_step_orchestrator.md R186) -/

theorem clkdet_mode (second : Bool) (s : State) : (clkdet second s).mode = s.mode := by
  rcases clkdet_cases second s with e | ⟨-, ⟨-, e⟩ | ⟨-, e⟩⟩ <;> rw [e]
  · rw [State.setHook_mode, State.setClock_mode]
  · rw [State.setHook_mode, State.setClock_mode]

theorem dacTransfer_mode (k : Chip) (w : Frame) (s : State) : (dacTransfer k w s).mode = s.mode := rfl

theorem writeOutput_mode (o : Nat) (out : Output) (s : State) : (writeOutput o out s).mode = s.mode := by
  unfold writeOutput
  split
  · split
    · rw [State.setOutput_mode, dacTransfer_mode]
    · rfl
  · rw [State.setOutput_mode, State.emit_mode]

theorem commitOutput_mode (o : Nat) (s : State) : (commitOutput o s).mode = s.mode := by
  cases h : s.outputs[o]? with
  | none => simp only [commitOutput, h]
  | some out =>
    rcases commitOutput_cases h with ⟨-, e⟩ | ⟨-, e⟩ <;> rw [e]
    exact writeOutput_mode o out s

theorem commitAll_mode (s : State) : (commitAll s).mode = s.mode :=
  commitAll_induct (fun _ t => t.mode = s.mode) rfl fun k t _ h => (commitOutput_mode k t).trans h

theorem seqCommit_mode (s : State) : (seqCommit s).mode = s.mode := by
  rw [seqCommit, endCycle_eq, State.setPhase_mode, commitAll_mode, State.setPhase_mode]

theorem seqStepHook_mode (s : State) : (seqStepHook s).mode = s.mode := by
  unfold seqStepHook
  split
  · rfl
  · exact seqCommit_mode s

theorem State.unlessHooked_mode {s : State} {rest : State → State} (h : (rest s).mode = s.mode) :
    (s.unlessHooked rest).mode = s.mode := by
  unfold State.unlessHooked
  split
  · rfl
  · exact h

theorem seqClk2_mode (s : State) : (seqClk2 s).mode = s.mode :=
  (State.unlessHooked_mode (seqStepHook_mode _)).trans (clkdet_mode true (s.setPhase .clk2))

theorem seqClk1_mode (s : State) : (seqClk1 s).mode = s.mode :=
  (State.unlessHooked_mode (seqClk2_mode _)).trans (clkdet_mode false (s.setPhase .clk1))

/-! ### A draw by itself (10_state.md R37) -/

theorem State.afterSample_eq_drawn (s : State) : s.afterSample = s.drawn 1 := by
  rw [← State.afterSample_drawn, State.drawn_zero]

theorem State.drawn_bank (s : State) (n : Nat) (b : Bank) : (s.drawn n).bank b = s.bank b := by
  cases b <;> rfl

/-! ### A conversion out of range in a cycle (60_exceptions.md R221) -/

/-- What is conditioned was converted within 32 bits (41_signal_conditioner.md R120). -/
theorem convExact_le_of_conditioned {p : Params} {b : Bank} {smp : Nat} {ch ch' : Channel}
    (h : conditioned p b smp ch = some ch') : convExact p smp (u32 ch.r1) (u32 ch.r2) ≤ 2147483647 := by
  cases hc : conv p smp (u32 ch.r1) (u32 ch.r2) with
  | error code => simp [conditioned, hc] at h
  | ok mv =>
    obtain ⟨-, hfits, -⟩ := conv_eq_ok.1 hc
    exact ((fits32_iff _).1 hfits).2

/-- Once all channels are conditioned, no conversion of the cycle's draws leaves 32 bits. -/
theorem CycleUpTo.convExact_le {s u : State} {p : Phase} (h : CycleUpTo s (drawCount s) u p) {b : Bank} {c : Nat}
    {ch : Channel} (hc : (s.bank b)[c]? = some ch) :
    convExact s.params (drawAt s (drawIndex s b c)) (u32 ch.r1) (u32 ch.r2) ≤ 2147483647 := by
  obtain ⟨ch', hcond, -⟩ := h.before b c ch (drawIndex_lt_drawCount (List.getElem?_eq_some_iff.1 hc).1) hc
  exact convExact_le_of_conditioned hcond

/-- The channels of a cycle that has got as far as channel `c` of bank `b`: those before it hold this cycle's values, it
and the later ones what they held. -/
theorem CycleUpTo.channels {s u : State} {b : Bank} {c : Nat} {p : Phase} (h : CycleUpTo s (drawIndex s b c) u p)
    (hc : c ≤ (s.bank b).length) (b' : Bank) (c' : Nat) (ch : Channel) (hc' : (s.bank b')[c']? = some ch) :
    if bankCode b' < bankCode b ∨ b' = b ∧ c' < c then
      ∃ ch', conditioned s.params b' (drawAt s (drawIndex s b' c')) ch = some ch' ∧ (u.bank b')[c']? = some ch'
    else (u.bank b')[c']? = some ch := by
  have hlt : c' < (s.bank b').length := (List.getElem?_eq_some_iff.1 hc').1
  have horder := drawIndex_lt hlt hc
  split
  · next hbefore => exact h.before b' c' ch (horder.2 hbefore) hc'
  · next hlater => exact (h.later b' c' hlt (not_lt.1 fun hd => hlater (horder.1 hd))).trans hc'

/-! ### The statements -/

/-- Settles O47: START is allowed in CONFIG only, STEP in RUN at IDLE without a hook, and ACK in RUN with one. -/
theorem commandsOutOfPhase : Obligations.CommandsOutOfPhase :=
  fun _ hm => ⟨State.hostCommand_outOfPhase hm, State.hostCommand_outOfPhase hm, State.hostCommand_outOfPhase hm⟩

/-- Settles O48: a word with 0x0200 in its upper half is RD, and every other word, legal or not, clears RES. -/
theorem haltedIsSticky : Obligations.HaltedIsSticky := by
  intro s c rest hin hm
  have hm' : (s.received rest c).mode = .halted := hm
  by_cases hw : c.cw.extractLsb' 16 16 = 0x0200
  · rw [if_pos hw, step_of_runs (fetch_cmd hin (decodeCmd_of_upperHalf_rd hw) rfl), exec_rd_of_halted hm',
      State.readAt_received]
    rfl
  · rw [if_neg hw, step_of_halted_of_not_rd hin hm hw]
    rfl

/-- Settles O39: the conditioning phases either finish, and then no conversion was out of range and nothing after them
raises, or they raise at a channel, up to which the cycle has gone. -/
theorem stepThatRaises : Obligations.StepThatRaises := by
  refine ⟨fun s hm hp hh hok => ?raises, fun s t hm hp hh hok hexec hhalt => ?leaves⟩
  case raises =>
    rintro ⟨b, c, ch, hc, hover⟩
    obtain ⟨-, -, -, hd, hpots⟩ := hok
    refine ⟨_, exec_step_of_idle hm hp hh, ?_⟩
    rcases seqCondIn_cases (s := { s with res := 0 }) (by simp [hm]) hd hpots with
      ⟨u, hu, -⟩ | ⟨_, _, _, _, -, -, -, e⟩
    · exact absurd (hu.convExact_le hc) (not_le.2 hover)
    · rw [e, State.raise_mode]
  case leaves =>
    obtain ⟨-, -, -, hd, hpots⟩ := hok
    have hview := (stepRule_cycleFrame s).config
    rw [exec_step_of_idle hm hp hh] at hexec
    cases hexec
    rcases seqCondIn_cases (s := { s with res := 0 }) (by simp [hm]) hd hpots with
      ⟨u, hu, e⟩ | ⟨b, c, ch, w, hc, hover, hw, e⟩
    · have hrun : (seqClk1 u).mode = .run := (seqClk1_mode u).trans ((congrArg (·.mode) hu.rest).trans hm)
      rw [e, hrun] at hhalt
      cases hhalt
    · rw [State.afterSample_eq_drawn] at e
      rw [show stepRule s = seqCondIn { s with res := 0 } from rfl, e] at hview
      rw [e]
      have hphase : w.phase = condPhase b := congrArg (·.phase) hw.rest
      refine ⟨b, c, ch, hc, hover, rfl, rfl, hphase.trans (by cases b <;> rfl), rfl,
        (congrArg (·.hook) hw.rest).trans hh, fun b' c' ch' hc' => ?channels, congrArg (·.clk1) hw.rest,
        congrArg (·.clk2) hw.rest, congrArg (·.outputs) hw.rest, congrArg (·.pins) hw.rest,
        congrArg (·.trace) hw.rest, hview⟩
      rw [State.raise_bank, State.drawn_bank]
      exact hw.channels (List.getElem?_eq_some_iff.1 hc).1.le b' c' ch' hc'

end Sys2Proof.Machine
end

section
/-! SUPPORT. The state right after reset of every implementation: its lists and registers, what START finds in it, what
RST makes of any state, and the statements of 70_reset_and_hazards.md. -/

namespace Sys2Proof.Machine

/-! ### The lists after reset (70_reset_and_hazards.md R234) -/

theorem State.eq_reset_of_mem_bank_resetWith {n : Counts} {p : Params} {b : Bank} {ch : Channel}
    (h : ch ∈ (State.resetWith n p).bank b) : ch = Channel.reset := by
  cases b with
  | inputs => exact List.eq_of_mem_replicate (a := Channel.reset) (n := n.nIn) h
  | pots => exact List.eq_of_mem_replicate (a := Channel.reset) (n := n.nPot) h
  | switches => exact List.eq_of_mem_replicate (a := Channel.reset) (n := n.nSw) h

theorem State.eq_reset_of_mem_outputs_resetWith {n : Counts} {p : Params} {out : Output}
    (h : out ∈ (State.resetWith n p).outputs) : out = Output.reset false :=
  List.eq_of_mem_replicate (a := Output.reset false) (n := n.nOut) h

@[simp] theorem State.resetWith_inputs_length (n : Counts) (p : Params) :
    (State.resetWith n p).inputs.length = n.nIn := List.length_replicate

@[simp] theorem State.resetWith_pots_length (n : Counts) (p : Params) :
    (State.resetWith n p).pots.length = n.nPot := List.length_replicate

@[simp] theorem State.resetWith_switches_length (n : Counts) (p : Params) :
    (State.resetWith n p).switches.length = n.nSw := List.length_replicate

@[simp] theorem State.resetWith_outputs_length (n : Counts) (p : Params) :
    (State.resetWith n p).outputs.length = n.nOut := List.length_replicate

theorem sized_resetWith (n : Counts) (p : Params) : sized (State.resetWith n p) := by
  simp only [sized, State.resetWith_inputs_length, State.resetWith_pots_length, State.resetWith_switches_length,
    State.resetWith_outputs_length]
  omega

/-! ### The registers after reset (R234) -/

/-- A block register that holds 0 is read as 0 at its address (20_memory.md R47). -/
theorem State.readAt_resetWith_of_zero {n : Counts} {p : Params} {r : Reg}
    (hr : (State.resetWith n p).hasReg r = true) (hzero : (State.resetWith n p).readReg r = 0) :
    (State.resetWith n p).readAt (BitVec.ofNat 16 (regAddr r)) = some 0 := by
  rw [State.readAt_regAddr (sized_resetWith n p) hr, hzero]

theorem State.readReg_chan_resetWith {n : Counts} {p : Params} {b : Bank} {c : Nat}
    (hc : c < ((State.resetWith n p).bank b).length) (r : ChanReg) :
    (State.resetWith n p).readReg (.chan b c r) = chanRegWord Channel.reset r := by
  simp only [State.readReg, List.getElem?_eq_getElem hc,
    State.eq_reset_of_mem_bank_resetWith (List.getElem_mem hc)]

theorem State.readReg_out_resetWith {n : Counts} {p : Params} {o : Nat}
    (ho : o < (State.resetWith n p).outputs.length) (r : OutReg) :
    (State.resetWith n p).readReg (.out o r) = outRegWord (Output.reset false) r := by
  simp only [State.readReg, List.getElem?_eq_getElem ho,
    State.eq_reset_of_mem_outputs_resetWith (List.getElem_mem ho)]

/-! ### START after reset (R235) -/

/-- Of START's checks only the last can fail after reset: no output is analog, no clock is enabled, and every R1
is 0. -/
theorem configFault_resetWith (n : Counts) (p : Params) :
    configFault (State.resetWith n p) = potsFault (State.resetWith n p) := by
  have hcount : analogCount (State.resetWith n p) = 0 := List.countP_eq_zero.2 fun out hout => by
    rw [State.eq_reset_of_mem_outputs_resetWith hout]; decide
  have hclock : clockSrcOk (State.resetWith n p) Clock.reset := fun hen => by cases hen
  refine configFault_of_dividers (by omega) hclock hclock fun b ch hch => ?_
  rw [State.eq_reset_of_mem_bank_resetWith hch]
  exact .inl rfl

theorem potsFault_resetWith_of_no_pot {n : Counts} {p : Params} (h : n.nPot = 0) :
    potsFault (State.resetWith n p) = none := by
  have hpots : (State.resetWith n p).pots = [] :=
    List.eq_nil_of_length_eq_zero ((State.resetWith_pots_length n p).trans (congrArg Fin.val h))
  exact potsFault_of_ok fun ch hch => absurd hch (by simp [hpots])

/-- The VMAX of the first pot, at its address (60_exceptions.md R217). -/
theorem potsFault_resetWith_of_pot {n : Counts} {p : Params} (h : n.nPot ≠ 0) :
    potsFault (State.resetWith n p) = some (.divZero, 0x0204) := by
  have hlt : 0 < (State.resetWith n p).pots.length := by
    rw [State.resetWith_pots_length]; exact Fin.pos_iff_ne_zero.2 h
  have hfirst : (State.resetWith n p).pots[0]? = some Channel.reset := by
    rw [List.getElem?_eq_getElem hlt,
      State.eq_reset_of_mem_bank_resetWith (b := .pots) (List.getElem_mem hlt)]
  have hvmax : u32 Channel.reset.vmax = 0 := rfl
  rw [potsFault_of_first hfirst (fun hok => hok.1 hvmax) (fun _ hc => absurd hc (Nat.not_lt_zero _)), if_pos hvmax]
  rfl

/-! ### What RST makes of a state (R232) -/

/-- Each output is in its reset state, whatever the level of its pin (log entry 7). -/
theorem State.exists_reset_of_mem_outputs_rst {s : State} {out : Output} (h : out ∈ s.rst.outputs) :
    ∃ level, out = Output.reset level := by
  obtain ⟨o, _, hout⟩ := List.mem_mapIdx.1 h
  exact ⟨_, hout.symm⟩

theorem State.rst_outputs_view (s : State) :
    s.rst.outputs.map (fun x => (x.analog, x.desired, x.committed)) =
      List.replicate s.outputs.length (false, (0 : Word), (none : Option Word)) := by
  refine List.eq_replicate_iff.2 ⟨by simp [State.rst], fun view hview => ?_⟩
  obtain ⟨out, hout, rfl⟩ := List.mem_map.1 hview
  obtain ⟨level, rfl⟩ := State.exists_reset_of_mem_outputs_rst hout
  rfl

/-- RST leaves the state after reset of the machine that it is, but for the surroundings, the trace and the levels of
DOUT. -/
theorem State.rst_eq_resetWith {s : State} {n : Counts} (hi : s.inputs.length = n.nIn)
    (hp : s.pots.length = n.nPot) (hw : s.switches.length = n.nSw) :
    s.rst = { State.resetWith n s.params with
      inbox := s.inbox, samples := s.samples, free := s.rst.free, trace := s.trace, outputs := s.rst.outputs } := by
  simp only [State.rst, State.resetWith, List.map_const', hi, hp, hw]

/-! ### The statements -/

/-- Settles O52: the reset state waits in CONFIG at IDLE with no fault, an idle bus, reset detectors and channels, and
no input to come; what `RunInv` says of RUN does not arise. -/
theorem resetHasTheInvariant : Obligations.ResetHasTheInvariant := fun n p =>
  { hostOnly := fun _ hx => absurd hx List.not_mem_nil
    counts := sized_resetWith n p
    waits := .inl ⟨rfl, rfl, rfl⟩
    record := ⟨⟨fun hm => (by cases hm), fun hcode => absurd rfl hcode⟩, fun _ => rfl⟩
    bus := ⟨rfl, rfl, rfl, rfl, rfl⟩
    clock1 := clockOk_config.2 ⟨rfl, rfl, rfl⟩
    clock2 := clockOk_config.2 ⟨rfl, rfl, rfl⟩
    channels := fun b _ hch => State.eq_reset_of_mem_bank_resetWith hch ▸ channelOk_reset b
    validated := fun hm => by cases hm
    secondClear := fun hm => by cases hm }

/-- Settles O49: the step is RST, which leaves the state after reset with the levels of DOUT free. -/
theorem rstRestoresTheResetState : Obligations.RstRestoresTheResetState := by
  intro s rest n hin hi hp hw ho
  refine ⟨_, step_of_rst hin, State.rst_eq_resetWith hi hp hw, ?_⟩
  rw [State.rst_outputs_view]
  exact congrArg (List.replicate · _) ho

/-- Settles O50: the block registers are read by their addresses and their words as numbers; every channel and output is
the reset one. -/
theorem resetRegisterValues : Obligations.ResetRegisterValues := by
  intro n p s
  have zero : ∀ {r : Reg}, s.hasReg r = true → s.readReg r = 0 → s.readAt (BitVec.ofNat 16 (regAddr r)) = some 0 :=
    State.readAt_resetWith_of_zero
  refine ⟨zero (r := .status) rfl (BitVec.eq_of_toNat_eq (statusWord_toNat s)),
    zero (r := .fault) rfl (BitVec.eq_of_toNat_eq (faultWord_toNat s)), zero (r := .faultInfo) rfl rfl,
    zero (r := .ctrl) rfl (BitVec.eq_of_toNat_eq (ctrlWord_toNat s.ctrl)),
    zero (r := .clkSrc false) rfl (BitVec.eq_of_toNat_eq (clkSrcWord_toNat s.clk1.src)),
    zero (r := .clkSrc true) rfl (BitVec.eq_of_toNat_eq (clkSrcWord_toNat s.clk2.src)),
    zero (r := .events) rfl (BitVec.eq_of_toNat_eq (eventsWord_toNat s)),
    ?params, fun b c hc => ?channel, fun o ho => ?output, fun out hout => ?committed,
    fun b ch hch => ?history, rfl, rfl, rfl, rfl, rfl, rfl, rfl, rfl, rfl, rfl, rfl, rfl, rfl, rfl, rfl,
    fun _ => rfl, fun _ => rfl, rfl⟩
  case params =>
    refine ⟨paramsWord s, State.readAt_regAddr (sized_resetWith n p) (r := .params) rfl, ?_⟩
    rw [paramsWord_toNat (sized_resetWith n p), State.resetWith_inputs_length, State.resetWith_pots_length,
      State.resetWith_switches_length, State.resetWith_outputs_length]
  case channel =>
    have hread := State.readReg_chan_resetWith hc
    exact ⟨hread .cctl, hread .r1, hread .r2, hread .cutoff, hread .vmax, hread .tol, hread .reading⟩
  case output =>
    have hread := State.readReg_out_resetWith ho
    exact ⟨hread .octl, hread .desired⟩
  case committed => rw [State.eq_reset_of_mem_outputs_resetWith hout]; rfl
  case history => rw [State.eq_reset_of_mem_bank_resetWith hch]; rfl

/-- Settles O51: START's last check, on the pots, decides; the START hook is not enabled after reset. -/
theorem startAfterReset : Obligations.StartAfterReset := by
  refine fun n p => ⟨fun hnone => ?passes, fun hpot => ?fails⟩
  case passes =>
    have hok := (configFault_resetWith n p).trans (potsFault_resetWith_of_no_pot hnone)
    refine ⟨enterRun (State.resetWith n p), ?_, ?_⟩
    · rw [exec_start_of_config rfl, startRule_of_ok hok]
    · rw [enterRun_eq]
      exact ⟨rfl, rfl⟩
  case fails =>
    have hfault := (configFault_resetWith n p).trans (potsFault_resetWith_of_pot hpot)
    exact ⟨_, exec_start_of_fault rfl hfault, rfl, rfl, rfl⟩

end Sys2Proof.Machine
end
